-- ==== Sys2Proof/Word.lean ====
section
/-! DEFINITION. The word types of the ENGINE (00_scope R8 BYTE_BITS, R9). -/

namespace Sys2Proof

/-- A byte: 8 bits, the atomic unit of every port (R9, D32). -/
abbrev Byte := BitVec 8

/-- A 16-bit quantity of a command payload (R92). -/
abbrev Half := BitVec 16

/-- A 32-bit quantity of a reply payload, or a 32-bit float pattern (R30, R184, R185). -/
abbrev Word := BitVec 32

/-- A point in time sampled on port NOW (R29, R297). Width and unit are the open parameter TS_BITS, so
the model puts no bound on it (assumption log 11). -/
abbrev Timestamp := Nat

end Sys2Proof
end

