-- ==== Sys2Proof/Config.lean ====
section
/-! DEFINITION. The parameters of 00_scope R8, under their names there. FIXED and DECIDED rows hold the
spec's value; OPEN rows are constants without a body, so that nothing can be proved of their value
(assumption logs 12 to 14). The free values of the model (assumption logs 6, 7, 23) stand here too. -/

namespace Sys2Proof.Config

/-! Framing (R8, R81, R84). -/

/-- PREFIX_A. -/
def prefixA : Byte := 0xFF
/-- PREFIX_B. -/
def prefixB : Byte := 0x55
/-- SUFFIX_A. -/
def suffixA : Byte := 0x0D
/-- SUFFIX_B. -/
def suffixB : Byte := 0x0A
/-- TX_SUFFIX, decided false (D3, conflict C1; assumption log 14). -/
def txSuffix : Bool := false
/-- PAYLOAD_MAX (D13). -/
def payloadMax : Nat := 252
/-- TEXT_MAX. -/
def textMax : Nat := 255
/-- MTU of the transport, informative only (R298, R337): nothing in the model depends on it. -/
def mtu : Nat := 20

/-! Indices (R8, R51). -/

/-- IDX_WRITE, the index of every write frame. -/
def idxWrite : Byte := 1
/-- IDX_RESERVED, never allocated (R326). -/
def idxReserved : Byte := 0
/-- IDX_MIN, the first allocated index. -/
def idxMin : Byte := 2
/-- IDX_MAX, the last allocated index. -/
def idxMax : Byte := 254

/-! Modes (R83; decided by D4, conflict C2; assumption log 14). -/

/-- MODE_WRITE. -/
def modeWrite : Byte := 0x02
/-- MODE_READ. -/
def modeRead : Byte := 0x01

/-! Type tags (R86; float fixed, the other five decided by D5; assumption log 14). -/

/-- TAG_BYTE. -/
def tagByte : Byte := 0x01
/-- TAG_FLOAT. -/
def tagFloat : Byte := 0x02
/-- TAG_SHORT. -/
def tagShort : Byte := 0x03
/-- TAG_TEXT. -/
def tagText : Byte := 0x04
/-- TAG_DOUBLE. -/
def tagDouble : Byte := 0x05
/-- TAG_LONG. -/
def tagLong : Byte := 0x06

/-! Payload lengths by tag (R87). -/

/-- LEN_BYTE. -/
def lenByte : Byte := 1
/-- LEN_SHORT. -/
def lenShort : Byte := 2
/-- LEN_FLOAT. -/
def lenFloat : Byte := 4
/-- LEN_DOUBLE. -/
def lenDouble : Byte := 4
/-- LEN_LONG. -/
def lenLong : Byte := 4
/-- TEXT_PROVISIONAL. -/
def textProvisional : Byte := 1

/-! Facade constants D00 gives (R90, R244). -/

/-- DEV_MOTOR_PAIR. -/
def devMotorPair : Byte := 0x05
/-- DEV_MOTOR. -/
def devMotor : Byte := 0x0A
/-- PORT_M1. -/
def portM1 : Byte := 0x09

/-! Facade constants D00 does not give: OPEN (D19, D20; assumption logs 12 and 13). -/

/-- DEV_LED. -/
opaque devLed : Byte
/-- LED_SUBCMD. -/
opaque ledSubcmd : Byte
/-- LED_POS: the byte of the k-th member of the position enum. -/
opaque ledPos : Nat → Byte
/-- DEV_BUZZER. -/
opaque devBuzzer : Byte
/-- DEV_ULTRASONIC. -/
opaque devUltrasonic : Byte
/-- DEV_LIGHT. -/
opaque devLight : Byte
/-- DEV_LINE. -/
opaque devLine : Byte
/-- PORT_ULTRASONIC_DEFAULT. -/
opaque portUltrasonicDefault : Byte
/-- PORT_LIGHT_DEFAULT. -/
opaque portLightDefault : Byte
/-- PORT_LINE_DEFAULT. -/
opaque portLineDefault : Byte
/-- PORT_M2. -/
opaque portM2 : Byte
/-- Which same-sign pair turns left: the sign bit behind TURN_LEFT_SIGN. -/
opaque turnLeftPositive : Bool

/-- TURN_LEFT_SIGN, +1 or -1 (R247, D20). -/
def turnLeftSign : Int := if turnLeftPositive then 1 else -1

/-! Free values: nothing constrains them. -/

/-- The n-th sample of port NOW (R211, R297, U8; assumption log 7). -/
opaque nowSample : Nat → Timestamp

/-- What `RX_INDEX` holds after a `reset()` (R320, U3; assumption log 6). -/
opaque resetRxIndex : Nat → Byte
/-- What `RX_TYPE` holds after a `reset()` (R320, U3; assumption log 6). -/
opaque resetRxType : Nat → Byte
/-- What `RX_REMAINING` holds after a `reset()` (R320, U3; assumption log 6). -/
opaque resetRxRemaining : Nat → Byte
/-- What `RX_LENPENDING` holds after a `reset()` (R320, U3; assumption log 6). -/
opaque resetRxLenPending : Nat → Bool
/-- What `PBUF` holds after a `reset()`, cut to TEXT_MAX bytes where it is used (R25, R320, U3; assumption
log 6). -/
opaque resetPbuf : Nat → List Byte

/-- UTF8_DECODE on bytes that are not valid UTF-8, as code points (D11, U7; assumption log 23). -/
opaque utf8OnInvalid : List Byte → List Nat

end Sys2Proof.Config
end

