-- ==== Sys2Proof/Syntax.lean ====
section
/-! DEFINITION. The operand types and the instructions: one constructor for each row of
spec/opcode_table.json. -/

namespace Sys2Proof

/-- A callback handle: opaque, stored and handed back unchanged (R8, R29, D15; assumption log 10). -/
structure CallbackHandle where
  id : Nat
  deriving DecidableEq, Repr

/-- An entry of the correlation table, D00's PendingReadRequest (R29). -/
structure Entry where
  index     : Byte
  issuedAt  : Timestamp
  onResolve : CallbackHandle
  deriving DecidableEq, Repr

/-- SensorValue (R30): an unsigned 32-bit integer (D29), a 32-bit float pattern (D30), or the exact bytes of
a text (D11). -/
inductive SensorValue where
  | int   (n : Word)
  | float (w : Word)
  | text  (s : List Byte)
  deriving DecidableEq, Repr

/-- CompletedFrame (R31). -/
structure CompletedFrame where
  index   : Byte
  type    : Byte
  payload : List Byte
  deriving DecidableEq, Repr

/-- How a transaction reaches the ENGINE, by the formats of spec/opcode_table.json (assumption log 1).
* `call`: an operation call, its selector byte (R100) and its operands (format OP).
* `command`: a command frame that is to leave on TX (format C).
* `inbound`: bytes delivered on RX as one chunk (formats R and A, and every other byte sequence).
* `rxStep`: one step of `feed`, a receive-state code and the inbound byte (format S). -/
inductive Channel where
  | call
  | command
  | inbound
  | rxStep
  deriving DecidableEq, Repr

/-- One transaction, as the environment presents it. -/
structure Transaction where
  channel : Channel
  bytes   : List Byte
  deriving DecidableEq, Repr

/-- Why the bytes of a transaction are no instruction. No byte sequence on RX is one of these (R65, R95). -/
inductive DecodeError where
  /-- a selector above 0x1E: R100 lists no such operation -/
  | unknownSelector (selector : Byte)
  /-- a call whose operand bytes are too few, or name no SensorValue variant (assumption log 2) -/
  | badOperands
  /-- bytes other than zero after the last operand (assumption log 2) -/
  | trailingBytes
  /-- a command word without the layout of R81 -/
  | notACommandFrame
  /-- a receive-state code above 6 (R21: "code 7 is not a state"), or no inbound byte after the code -/
  | badRxStep
  deriving DecidableEq, Repr

/-- The instructions: operations of R100 and wire frame kinds (R12). -/
inductive Instr where
  -- format C, command frames (R81, R91)
  | frameC (index mode deviceId : Byte) (payload : List Byte)
  | frameCWrite (deviceId : Byte) (payload : List Byte)
  | frameCRead (index deviceId : Byte) (payload : List Byte) (callback : CallbackHandle)
  | cmdMotorPair (left right : Half)
  | cmdMotor (port : Byte) (speed : Half)
  | cmdLed (position red green blue : Byte)
  | cmdTone (pitch duration : Half)
  | cmdReadUltrasonic (index port : Byte) (callback : CallbackHandle)
  | cmdReadLightness (index port : Byte) (callback : CallbackHandle)
  | cmdReadLineFollower (index port : Byte) (callback : CallbackHandle)
  -- format R, reply frames (R84 to R88)
  | replyByte (index value : Byte)
  | replyFloat (index : Byte) (pattern : Word)
  | replyShort (index : Byte) (value : Half)
  | replyDouble (index : Byte) (pattern : Word)
  | replyLong (index : Byte) (value : Word)
  | replyText (index : Byte) (text : List Byte)
  -- format A (R89)
  | ack
  -- format S, one step of feed (R141 to R147)
  | rxStepAwaitPrefixA (b : Byte)
  | rxStepAwaitPrefixB (b : Byte)
  | rxStepAwaitIndex (b : Byte)
  | rxStepAwaitDataType (b : Byte)
  | rxStepAwaitPayload (b : Byte)
  | rxStepAwaitSuffixA (b : Byte)
  | rxStepAwaitSuffixB (b : Byte)
  -- format OP (R100)
  | opEncode (index mode deviceId : Byte) (payload : List Byte)
  | opSplit16 (v : Int)
  | opDecode16 (lo hi : Byte)
  | opFeed (b : Byte)
  | opRxByte (b : Byte)
  | opRxChunk (bytes : List Byte)
  | opDecode (tag : Byte) (payload : List Byte)
  | opIntValue (v : SensorValue)
  | opFloatValue (v : SensorValue)
  | opTextValue (v : SensorValue)
  | opAllocate (callback : CallbackHandle)
  | opResolve (index : Byte) (v : SensorValue)
  | opDiscardAll
  | opIsExpired (entry : Entry)
  | opSendWrite (deviceId : Byte) (payload : List Byte)
  | opSendRead (deviceId : Byte) (payload : List Byte) (callback : CallbackHandle)
  | opSetMotors (left right : Int)
  | opSetMotor (port : Byte) (speed : Int)
  | opMoveForward (speed : Int)
  | opMoveBackward (speed : Int)
  | opTurnLeft (speed : Int)
  | opTurnRight (speed : Int)
  | opStop
  | opSetLED (position red green blue : Byte)
  | opPlayTone (pitch duration : Int)
  | opReadUltrasonic (port : Byte) (callback : CallbackHandle)
  | opReadLightness (port : Byte) (callback : CallbackHandle)
  | opReadLineFollower (port : Byte) (callback : CallbackHandle)
  | opOnConnect
  | opOnDisconnect
  | opReset
  deriving DecidableEq, Repr

end Sys2Proof
end

