-- ==== Sys2Proof/Machine/State.lean ====
section
/-! DEFINITION. The state of one ENGINE instance (10_state R20 to R29), the model's own record of the ports, the
reasons a step can stop, and the state after reset (R36, R320). -/

namespace Sys2Proof.Machine

/-- The receive states (R21), in the order of their codes 0 to 6. -/
inductive RxState where
  | awaitPrefixA
  | awaitPrefixB
  | awaitIndex
  | awaitDataType
  | awaitPayload
  | awaitSuffixA
  | awaitSuffixB
  deriving DecidableEq, Repr

/-- The correlation table TBL (R28): a partial map from byte keys to entries. A key that is not listed holds no
entry. In canonical form the keys rise strictly (`Table.wf`, assumption log 27). -/
abbrev Table := List (Byte × Entry)

/-- What an operation hands back on port CMD (R6, R10; assumption log 9). -/
inductive CmdResult where
  /-- no value -/
  | none
  /-- a byte sequence: `encode`, `textValue` -/
  | bytes (b : List Byte)
  /-- a pair of bytes: `split16` -/
  | pair (lo hi : Byte)
  /-- an integer: `decode16`, `intValue` -/
  | int (v : Int)
  /-- a 32-bit float pattern: `floatValue` -/
  | pattern (w : Word)
  /-- `feed` -/
  | frame (f : Option CompletedFrame)
  /-- `decode` -/
  | value (v : SensorValue)
  /-- an index: `allocate` and the read commands -/
  | index (i : Byte)
  /-- a boolean: `resolve`, `isExpired` -/
  | bool (b : Bool)
  deriving DecidableEq, Repr

/-- The machine. The first eight fields are the spec's (R20); the other five are the model's own. -/
structure State where
  /-- `RXS` (R21) -/
  rxs : RxState
  /-- `RX_INDEX` (R22) -/
  rxIndex : Byte
  /-- `RX_TYPE` (R23) -/
  rxType : Byte
  /-- `RX_REMAINING` (R24) -/
  rxRemaining : Byte
  /-- `RX_LENPENDING` (R26) -/
  rxLenPending : Bool
  /-- `PBUF` (R25) -/
  pbuf : List Byte
  /-- `CURSOR` (R27) -/
  cursor : Byte
  /-- `TBL` (R28) -/
  tbl : Table
  /-- the transactions still to be delivered, oldest first (assumption log 1) -/
  pending : List Transaction
  /-- how many free values have been read (assumption log 8) -/
  freeCount : Nat
  /-- what the last transaction handed back on CMD (assumption log 9) -/
  ret : CmdResult
  /-- the TX transactions so far, oldest first (assumption log 9) -/
  tx : List (List Byte)
  /-- the CB transactions so far, oldest first (assumption log 9) -/
  cb : List (CallbackHandle × SensorValue)
  deriving DecidableEq, Repr

/-- The ENGINE has no fault: "The block raises no exception to anyone" (R280), so no constructor
(assumption log 26). -/
inductive Fault where
  deriving DecidableEq, Repr

/-- Why a transaction is refused: no next state, as R10's `refuse` says. Every one is safe: the model stops where
the spec gives no meaning. -/
inductive Refusal where
  /-- Raised by `exec` for an instruction without a meaning; no arm raises it. Safe. -/
  | notModelled (mnemonic : String)
  /-- Raised by `encode`, `sendWrite`, `sendRead` and the command frames for a payload above 252 bytes
  (R121, D13, U1). Safe. -/
  | payloadTooLong
  /-- Raised by REPLY.TEXT for a text above 255 bytes, which no reply frame carries (R88); nothing decodes to
  one. Safe. -/
  | textTooLong
  /-- Raised by `split16`, the motor commands, the directional helpers and `playTone` for an integer outside
  the operation's domain (R123, R255, D14, U9). Safe. -/
  | operandOutOfDomain
  /-- Raised by `decode` for an unknown tag or a payload of the wrong length (R188, D34, U2). Safe. -/
  | decodeOutOfDomain
  /-- Raised by the RXSTEP rows when RXS is another state: R140 selects the step by RXS (assumption log 19).
  Safe. -/
  | stepNotSelected
  /-- Raised by `step` for a transaction whose bytes are no instruction; never for inbound bytes
  (assumption logs 1 and 2). Safe. -/
  | undecodable (reason : DecodeError)
  deriving DecidableEq, Repr

/-- The outcome of a transaction. -/
abbrev Result := Host.Outcome State Fault Refusal

/-- The canonical form of the table: keys rise strictly (assumption log 27). -/
abbrev Table.wf (t : Table) : Prop := List.Pairwise (fun a b => a.1.toNat < b.1.toNat) t

/-- The state right after reset: RXS, CURSOR and TBL as R36 and R320 say; the five working registers, which R36
leaves unspecified, at zero (DESIGN CHOICE, unsafe, assumption log 5); the model's own fields empty. -/
def State.reset : State where
  rxs := .awaitPrefixA
  rxIndex := 0
  rxType := 0
  rxRemaining := 0
  rxLenPending := false
  pbuf := []
  cursor := Config.idxMin
  tbl := []
  pending := []
  freeCount := 0
  ret := .none
  tx := []
  cb := []

end Sys2Proof.Machine
end

