-- ==== Sys2Proof/Machine/Flags.lean ====
section
/-! DEFINITION. The block's only flag, RX_LENPENDING (R26), and the type-tag checks it is computed from. -/

namespace Sys2Proof.Machine

/-- The six known tags, KNOWN of R149 (R86). -/
def knownTags : List Byte :=
  [Config.tagByte, Config.tagFloat, Config.tagShort, Config.tagText, Config.tagDouble, Config.tagLong]

/-- Membership in KNOWN (R144). -/
def knownTag (b : Byte) : Bool := knownTags.contains b

/-- RX_LENPENDING after a known tag: true for text, false otherwise (R144). -/
def lenPendingAfterTag (tag : Byte) : Bool := tag == Config.tagText

/-- RX_LENPENDING after a payload byte: the length byte is consumed (R145). -/
def lenPendingAfterPayloadByte : Bool := false

/-- The type-to-length table (R87); zero stands for a tag that is not in it. -/
def tagLength (tag : Byte) : Byte :=
  if tag = Config.tagByte then Config.lenByte
  else if tag = Config.tagShort then Config.lenShort
  else if tag = Config.tagFloat then Config.lenFloat
  else if tag = Config.tagDouble then Config.lenDouble
  else if tag = Config.tagLong then Config.lenLong
  else 0

/-- RX_REMAINING after a known tag: provisionally 1 for text, else the table's length (R144). -/
def remainingAfterTag (tag : Byte) : Byte :=
  if tag = Config.tagText then Config.textProvisional else tagLength tag

end Sys2Proof.Machine
end

