-- ==== Sys2Proof/Machine/Operands.lean ====
section
/-! DEFINITION. Operand forms: the domains of integer operands, the 16-bit split and its inverse, and the
little-endian composition of reply payloads. -/

namespace Sys2Proof.Machine

/-- The signed 16-bit range (R123, R243). -/
def inSigned16 (v : Int) : Bool := decide (-32768 ≤ v ∧ v ≤ 32767)

/-- The unsigned 16-bit range of the tone command (R251, D36). -/
def inUnsigned16 (v : Int) : Bool := decide (0 ≤ v ∧ v ≤ 65535)

/-- The domain of the directional helpers, whose negation must be a signed 16-bit value too (R245, U9). -/
def inNegatable16 (v : Int) : Bool := decide (-32767 ≤ v ∧ v ≤ 32767)

/-- The low byte of a 16-bit value's two's-complement pattern (R92). -/
def lowByte (v : Int) : Byte := BitVec.ofInt 8 (v % 65536)

/-- The high byte of a 16-bit value's two's-complement pattern (R92). -/
def highByte (v : Int) : Byte := BitVec.ofInt 8 (v % 65536 / 256)

/-- `split16` (R123): low byte first; outside -32768..65535 no result (D14). -/
def split16 (v : Int) : Option (Byte × Byte) :=
  if v < -32768 ∨ 65535 < v then none else some (lowByte v, highByte v)

/-- `sext_N` (R10). -/
def sext (n : Nat) (v : Nat) : Int := if v < 2 ^ (n - 1) then (v : Int) else (v : Int) - (2 : Int) ^ n

/-- `decode16` (R124). -/
def decode16 (lo hi : Byte) : Int := sext 16 ((hi.toNat <<< 8) ||| lo.toNat)

/-- The little-endian composition of two bytes, `(byte[1] << 8) | byte[0]` (R183). -/
def compose2 (p0 p1 : Byte) : Word := (p1.zeroExtend 32 <<< 8) ||| p0.zeroExtend 32

/-- The little-endian composition of four bytes (R184, R185). -/
def compose4 (p0 p1 p2 p3 : Byte) : Word :=
  (p3.zeroExtend 32 <<< 24) ||| (p2.zeroExtend 32 <<< 16) ||| (p1.zeroExtend 32 <<< 8) ||| p0.zeroExtend 32

/-- The signed reading of a 16-bit wire field (R91: speeds). -/
def signedField (v : Half) : Int := v.toInt

/-- The unsigned reading of a 16-bit wire field (R91: pitch and duration, D36). -/
def unsignedField (v : Half) : Int := v.toNat

end Sys2Proof.Machine
end

