-- ==== Sys2Proof/Machine/Ops.lean ====
section
/-! DEFINITION. The named operations over the registers, the table, the buffer and the ports, and the recovery
action `raise Resync`, the block's one exception entry. -/

namespace Sys2Proof.Machine

/-! Register writes, `x[NAME] <- v` of R10. -/

/-- Write RXS. -/
def State.setRxs (s : State) (v : RxState) : State := { s with rxs := v }
/-- Write RX_INDEX. -/
def State.setRxIndex (s : State) (v : Byte) : State := { s with rxIndex := v }
/-- Write RX_TYPE. -/
def State.setRxType (s : State) (v : Byte) : State := { s with rxType := v }
/-- Write RX_REMAINING. -/
def State.setRxRemaining (s : State) (v : Byte) : State := { s with rxRemaining := v }
/-- Write RX_LENPENDING. -/
def State.setRxLenPending (s : State) (v : Bool) : State := { s with rxLenPending := v }
/-- Write PBUF as a whole. -/
def State.setPbuf (s : State) (v : List Byte) : State := { s with pbuf := v }
/-- Write CURSOR. -/
def State.setCursor (s : State) (v : Byte) : State := { s with cursor := v }
/-- Write TBL as a whole. -/
def State.setTbl (s : State) (v : Table) : State := { s with tbl := v }
/-- The environment's queue of transactions. -/
def State.setPending (s : State) (v : List Transaction) : State := { s with pending := v }
/-- One more free value has been read. -/
def State.countFree (s : State) : State := { s with freeCount := s.freeCount + 1 }
/-- `return v` on port CMD. -/
def State.setRet (s : State) (v : CmdResult) : State := { s with ret := v }
/-- `emit TX(bytes)` (R10): one TX transaction carrying one whole frame. -/
def State.emitTx (s : State) (f : List Byte) : State := { s with tx := s.tx ++ [f] }
/-- `emit CB(h, v)` (R10). -/
def State.emitCb (s : State) (h : CallbackHandle) (v : SensorValue) : State := { s with cb := s.cb ++ [(h, v)] }

/-! The payload buffer (R50): cleared, appended to, read. -/

/-- `PBUF <- []`. -/
def State.clearPbuf (s : State) : State := s.setPbuf []
/-- `PBUF <- PBUF ++ [b]`. -/
def State.appendPbuf (s : State) (b : Byte) : State := s.setPbuf (s.pbuf ++ [b])
/-- `MemRead(addr, n)` of R10: `n` consecutive bytes of PBUF from position `addr`. -/
def memRead (s : State) (addr n : Nat) : List Byte := (s.pbuf.drop addr).take n

/-! The correlation table (R28). -/

/-- `TBL[k]`. -/
def tblLookup : Table → Byte → Option Entry
  | [], _ => none
  | (k', e) :: t, k => if k' = k then some e else tblLookup t k

/-- `TBL[k] <- e`: store, replacing what the key held; the keys stay in rising order. -/
def tblStore : Table → Byte → Entry → Table
  | [], k, e => [(k, e)]
  | (k', e') :: t, k, e =>
    if k' = k then (k, e) :: t
    else if k.toNat < k'.toNat then (k, e) :: (k', e') :: t
    else (k', e') :: tblStore t k e

/-- `TBL[k] <- none`. -/
def tblRemove : Table → Byte → Table
  | [], _ => []
  | (k', e) :: t, k => if k' = k then t else (k', e) :: tblRemove t k

/-! The recovery action. -/

/-- `raise Resync` (R148, R285): RXS becomes AwaitPrefixA and nothing else changes. There is no saved state, no
handler and no return (R285, R286). -/
def raiseResync (s : State) : State := s.setRxs .awaitPrefixA

/-! Table operations shared by the calls, dispatch and the facade. -/

/-- The cursor after index `i` (R211): `i + 1`, or IDX_MIN when that exceeds IDX_MAX. -/
def nextCursor (i : Byte) : Byte := if i.toNat + 1 > Config.idxMax.toNat then Config.idxMin else i + 1

/-- `allocate` (R211), less its return value, which is the CURSOR before it. The sample of NOW is a free value
(assumption log 7). -/
def allocate (callback : CallbackHandle) (s : State) : State :=
  let e : Entry := ⟨s.cursor, Config.nowSample s.freeCount, callback⟩
  ((s.setTbl (tblStore s.tbl s.cursor e)).setCursor (nextCursor s.cursor)).countFree

/-- `resolve` (R212): the state after it and its boolean. -/
def resolve (index : Byte) (v : SensorValue) (s : State) : State × Bool :=
  match tblLookup s.tbl index with
  | none => (s, false)
  | some e => ((s.emitCb e.onResolve v).setTbl (tblRemove s.tbl index), true)

/-- `discardAll` (R214): TBL only. -/
def discardAll (s : State) : State := s.setTbl []

/-- `reset` (R320): RXS, CURSOR and TBL at their reset values; the five working registers unspecified, hence free
values (assumption log 6). -/
def resetEngine (s : State) : State :=
  let n := s.freeCount
  ((((((((s.setRxs .awaitPrefixA).setCursor Config.idxMin).setTbl []).setRxIndex (Config.resetRxIndex n)).setRxType
    (Config.resetRxType n)).setRxRemaining (Config.resetRxRemaining n)).setRxLenPending
    (Config.resetRxLenPending n)).setPbuf ((Config.resetPbuf n).take Config.textMax)).countFree

/-! Outcomes. -/

/-- Record what a completed transaction hands back on CMD. -/
def returning (r : CmdResult) : Result → Result
  | .next s => .next (s.setRet r)
  | .fault f => .fault f
  | .refused r => .refused r

end Sys2Proof.Machine
end

