-- ==== Sys2Proof/Machine/Codec.lean ====
section
/-! DEFINITION. The Frame Codec (40_frame_codec): `encode`, `split16`, `decode16`. Pure (R120). -/

namespace Sys2Proof.Machine

/-- `encode` (R121): the bytes of one command frame; above PAYLOAD_MAX payload bytes no result (D13). -/
def encodeFrame (index mode deviceId : Byte) (payload : List Byte) : Option (List Byte) :=
  if payload.length > Config.payloadMax then none
  else
    let body := [Config.prefixA, Config.prefixB, BitVec.ofNat 8 (payload.length + 3), index, mode, deviceId] ++ payload
    some (if Config.txSuffix then body ++ [Config.suffixA, Config.suffixB] else body)

/-- OP.encode (R121). -/
def execEncode (index mode deviceId : Byte) (payload : List Byte) (s : State) : Result :=
  match encodeFrame index mode deviceId payload with
  | some f => .next (s.setRet (.bytes f))
  | none => .refused .payloadTooLong

/-- OP.split16 (R123). -/
def execSplit16 (v : Int) (s : State) : Result :=
  match split16 v with
  | some (lo, hi) => .next (s.setRet (.pair lo hi))
  | none => .refused .operandOutOfDomain

/-- OP.decode16 (R124). -/
def execDecode16 (lo hi : Byte) (s : State) : Result := .next (s.setRet (.int (decode16 lo hi)))

end Sys2Proof.Machine
end

