-- ==== Sys2Proof/Machine/Correlation.lean ====
section
/-! DEFINITION. The Request Correlation Table (43_correlation_table). -/

namespace Sys2Proof.Machine

/-- OP.allocate (R211): returns the CURSOR before the call. -/
def execAllocate (callback : CallbackHandle) (s : State) : Result :=
  .next ((allocate callback s).setRet (.index s.cursor))

/-- OP.resolve (R212): returns whether an entry was pending. -/
def execResolve (index : Byte) (v : SensorValue) (s : State) : Result :=
  .next ((resolve index v s).1.setRet (.bool (resolve index v s).2))

/-- OP.discardAll (R214). -/
def execDiscardAll (s : State) : Result := .next ((discardAll s).setRet .none)

/-- `isExpired` (R215): constant false (D22). -/
def isExpired (_entry : Entry) : Bool := false

/-- OP.isExpired (R215). -/
def execIsExpired (entry : Entry) (s : State) : Result := .next (s.setRet (.bool (isExpired entry)))

end Sys2Proof.Machine
end

