-- ==== Sys2Proof/Machine/Facade.lean ====
section
/-! DEFINITION. The Command Facade (44_command_facade), the LINK events and `reset`. -/

namespace Sys2Proof.Machine

/-- `sendWrite` (R240). -/
def sendWrite (deviceId : Byte) (payload : List Byte) (s : State) : Result :=
  match encodeFrame Config.idxWrite Config.modeWrite deviceId payload with
  | some f => .next ((s.emitTx f).setRet .none)
  | none => .refused .payloadTooLong

/-- `sendRead` (R241): allocate, encode, emit, in that order and as one transaction (D33). -/
def sendRead (deviceId : Byte) (payload : List Byte) (callback : CallbackHandle) (s : State) : Result :=
  match encodeFrame s.cursor Config.modeRead deviceId payload with
  | some f => .next (((allocate callback s).emitTx f).setRet (.index s.cursor))
  | none => .refused .payloadTooLong

/-- `setMotors` (R243): left first; a speed outside the signed 16-bit range is refused (R255). -/
def setMotors (left right : Int) (s : State) : Result :=
  if inSigned16 left && inSigned16 right then
    sendWrite Config.devMotorPair [lowByte left, highByte left, lowByte right, highByte right] s
  else .refused .operandOutOfDomain

/-- `setMotor` (R244). -/
def setMotor (port : Byte) (speed : Int) (s : State) : Result :=
  if inSigned16 speed then sendWrite Config.devMotor [port, lowByte speed, highByte speed] s
  else .refused .operandOutOfDomain

/-- A directional helper with the sign of each wheel (R102, R245): its speed and the negation of it must both be
signed 16-bit values (U9). -/
def drive (leftSign rightSign : Int) (speed : Int) (s : State) : Result :=
  if inNegatable16 speed then setMotors (leftSign * speed) (rightSign * speed) s
  else .refused .operandOutOfDomain

/-- `setLED` (R250). -/
def setLED (position red green blue : Byte) (s : State) : Result :=
  sendWrite Config.devLed [Config.ledSubcmd, position, red, green, blue] s

/-- `playTone` (R251). -/
def playTone (pitch duration : Int) (s : State) : Result :=
  if inUnsigned16 pitch && inUnsigned16 duration then
    sendWrite Config.devBuzzer [lowByte pitch, highByte pitch, lowByte duration, highByte duration] s
  else .refused .operandOutOfDomain

/-- OP.sendWrite (R240). -/
def execSendWrite (deviceId : Byte) (payload : List Byte) (s : State) : Result := sendWrite deviceId payload s

/-- OP.sendRead (R241). -/
def execSendRead (deviceId : Byte) (payload : List Byte) (callback : CallbackHandle) (s : State) : Result :=
  sendRead deviceId payload callback s

/-- OP.setMotors (R243). -/
def execSetMotors (left right : Int) (s : State) : Result := setMotors left right s

/-- OP.setMotor (R244). -/
def execSetMotor (port : Byte) (speed : Int) (s : State) : Result := setMotor port speed s

/-- OP.moveForward (R245): `setMotors(-s, +s)`. -/
def execMoveForward (speed : Int) (s : State) : Result := drive (-1) 1 speed s

/-- OP.moveBackward (R246): `setMotors(+s, -s)`. -/
def execMoveBackward (speed : Int) (s : State) : Result := drive 1 (-1) speed s

/-- OP.turnLeft (R247): `setMotors(T*s, T*s)`. -/
def execTurnLeft (speed : Int) (s : State) : Result := drive Config.turnLeftSign Config.turnLeftSign speed s

/-- OP.turnRight (R248): `setMotors(-T*s, -T*s)`. -/
def execTurnRight (speed : Int) (s : State) : Result :=
  drive (-Config.turnLeftSign) (-Config.turnLeftSign) speed s

/-- OP.stop (R249): `setMotors(0, 0)`. -/
def execStop (s : State) : Result := setMotors 0 0 s

/-- OP.setLED (R250). -/
def execSetLED (position red green blue : Byte) (s : State) : Result := setLED position red green blue s

/-- OP.playTone (R251). -/
def execPlayTone (pitch duration : Int) (s : State) : Result := playTone pitch duration s

/-- OP.readUltrasonic (R252). -/
def execReadUltrasonic (port : Byte) (callback : CallbackHandle) (s : State) : Result :=
  sendRead Config.devUltrasonic [port] callback s

/-- OP.readLightness (R253). -/
def execReadLightness (port : Byte) (callback : CallbackHandle) (s : State) : Result :=
  sendRead Config.devLight [port] callback s

/-- OP.readLineFollower (R254). -/
def execReadLineFollower (port : Byte) (callback : CallbackHandle) (s : State) : Result :=
  sendRead Config.devLine [port] callback s

/-- OP.onConnect (R258): no effect (D24). -/
def execOnConnect (s : State) : Result := .next (s.setRet .none)

/-- OP.onDisconnect (R259): `discardAll` (D24). -/
def execOnDisconnect (s : State) : Result := .next ((discardAll s).setRet .none)

/-- OP.reset (R320). -/
def execReset (s : State) : Result := .next ((resetEngine s).setRet .none)

end Sys2Proof.Machine
end

