-- ==== Sys2Proof/Machine/Commands.lean ====
section
/-! DEFINITION. The command frames (format C, R81, R91): executing one puts that frame on TX (assumption log 15).
A write frame is `sendWrite` and leaves the table alone. A read frame with the index the allocator hands out now is
`sendRead` (R85, R241); with any other index it is a frame of `encode` alone, which makes no table entry (R126;
assumption log 16). -/

namespace Sys2Proof.Machine

/-- A frame built by `encode` (R121) crosses TX. It makes no table entry (R126). -/
def sendFrame (index mode deviceId : Byte) (payload : List Byte) (s : State) : Result :=
  match encodeFrame index mode deviceId payload with
  | some f => .next ((s.emitTx f).setRet .none)
  | none => .refused .payloadTooLong

/-- A read frame: `sendRead` where byte 3 is the allocated index, the CURSOR. -/
def sendReadFrame (index deviceId : Byte) (payload : List Byte) (callback : CallbackHandle) (s : State) : Result :=
  if index = s.cursor then sendRead deviceId payload callback s
  else sendFrame index Config.modeRead deviceId payload s

/-- FRAME.C (R81). -/
def execFrameC (index mode deviceId : Byte) (payload : List Byte) (s : State) : Result :=
  sendFrame index mode deviceId payload s

/-- FRAME.C.WRITE (R240). -/
def execFrameCWrite (deviceId : Byte) (payload : List Byte) (s : State) : Result := sendWrite deviceId payload s

/-- FRAME.C.READ (R241). -/
def execFrameCRead (index deviceId : Byte) (payload : List Byte) (callback : CallbackHandle) (s : State) : Result :=
  sendReadFrame index deviceId payload callback s

/-- CMD.MOTOR_PAIR (R243): two signed 16-bit fields. -/
def execCmdMotorPair (left right : Half) (s : State) : Result := setMotors (signedField left) (signedField right) s

/-- CMD.MOTOR (R244): a signed 16-bit field. -/
def execCmdMotor (port : Byte) (speed : Half) (s : State) : Result := setMotor port (signedField speed) s

/-- CMD.LED (R250). -/
def execCmdLed (position red green blue : Byte) (s : State) : Result := setLED position red green blue s

/-- CMD.TONE (R251): two unsigned 16-bit fields. -/
def execCmdTone (pitch duration : Half) (s : State) : Result :=
  playTone (unsignedField pitch) (unsignedField duration) s

/-- CMD.READ_ULTRASONIC (R252). -/
def execCmdReadUltrasonic (index port : Byte) (callback : CallbackHandle) (s : State) : Result :=
  sendReadFrame index Config.devUltrasonic [port] callback s

/-- CMD.READ_LIGHTNESS (R253). -/
def execCmdReadLightness (index port : Byte) (callback : CallbackHandle) (s : State) : Result :=
  sendReadFrame index Config.devLight [port] callback s

/-- CMD.READ_LINEFOLLOWER (R254). -/
def execCmdReadLineFollower (index port : Byte) (callback : CallbackHandle) (s : State) : Result :=
  sendReadFrame index Config.devLine [port] callback s

end Sys2Proof.Machine
end

