-- ==== Sys2Proof/WellFormed.lean ====
section
/-! DEFINITION. Which instructions have an encoding of their own. A check is about the encoding only: whether
an operand lies in the DOMAIN of its operation (a speed, a payload of `encode`) is the meaning's affair. -/

namespace Sys2Proof

/-- An integer operand fits the 32-bit operand of a call (assumption log 2). -/
def intFits (v : Int) : Bool := decide (-2147483648 ≤ v ∧ v ≤ 2147483647)

/-- A handle fits the 32-bit operand of a call (assumption log 2). -/
def handleFits (h : CallbackHandle) : Bool := decide (h.id < 4294967296)

/-- A byte sequence fits the 16-bit count of a call operand (assumption log 2). -/
def bytesFit (p : List Byte) : Bool := decide (p.length < 65536)

/-- A SensorValue is one: its text has at most TEXT_MAX bytes (R30). -/
def valueFits : SensorValue → Bool
  | .int _ => true
  | .float _ => true
  | .text s => decide (s.length ≤ Config.textMax)

/-- An entry fits the operand of `isExpired` (assumption log 2). -/
def entryFits (e : Entry) : Bool := decide (e.issuedAt < 4294967296) && handleFits e.onResolve

/-- A command frame's payload fits its length byte (R81, R82). -/
def payloadFitsFrame (p : List Byte) : Bool := decide (p.length ≤ Config.payloadMax)

/-- An index the allocator can hand out (R51). -/
def allocatable (i : Byte) : Bool := decide (Config.idxMin ≤ i ∧ i ≤ Config.idxMax)

/-- This write frame is one of the rows CMD.MOTOR_PAIR, CMD.MOTOR, CMD.LED, CMD.TONE (R91, assumption log 17). -/
def isFacadeWrite (deviceId : Byte) (payload : List Byte) : Bool :=
  (deviceId == Config.devMotorPair && payload.length == 4) ||
  (deviceId == Config.devMotor && payload.length == 3) ||
  (deviceId == Config.devLed && payload.length == 5 && payload.head? == some Config.ledSubcmd) ||
  (deviceId == Config.devBuzzer && payload.length == 4)

/-- This read frame is one of the rows CMD.READ_ULTRASONIC, CMD.READ_LIGHTNESS, CMD.READ_LINEFOLLOWER
(R91, assumption log 17). -/
def isFacadeRead (deviceId : Byte) (payload : List Byte) : Bool :=
  payload.length == 1 &&
    (deviceId == Config.devUltrasonic || deviceId == Config.devLight || deviceId == Config.devLine)

/-- The instruction has an encoding of its own: its operands fit their fields, and no more specific row of
the table has the same bytes (assumption log 17; the OPEN device ids may coincide, so the rows that a
coincidence would shadow say so). -/
def Instr.wellFormed : Instr → Bool
  | .frameC index mode _ payload =>
      payloadFitsFrame payload && !(index == Config.idxWrite && mode == Config.modeWrite)
        && !(mode == Config.modeRead && allocatable index)
  | .frameCWrite deviceId payload => payloadFitsFrame payload && !isFacadeWrite deviceId payload
  | .frameCRead index deviceId payload callback =>
      allocatable index && payloadFitsFrame payload && !isFacadeRead deviceId payload && handleFits callback
  | .cmdMotorPair _ _ => true
  | .cmdMotor _ _ => true
  | .cmdLed _ _ _ _ => true
  | .cmdTone _ _ => Config.devBuzzer != Config.devMotorPair
  | .cmdReadUltrasonic index _ callback => allocatable index && handleFits callback
  | .cmdReadLightness index _ callback =>
      allocatable index && handleFits callback && Config.devLight != Config.devUltrasonic
  | .cmdReadLineFollower index _ callback =>
      allocatable index && handleFits callback && Config.devLine != Config.devUltrasonic
        && Config.devLine != Config.devLight
  | .replyByte _ _ => true
  | .replyFloat _ _ => true
  | .replyShort _ _ => true
  | .replyDouble _ _ => true
  | .replyLong _ _ => true
  | .replyText _ text => decide (text.length ≤ Config.textMax)
  | .ack => true
  | .rxStepAwaitPrefixA _ => true
  | .rxStepAwaitPrefixB _ => true
  | .rxStepAwaitIndex _ => true
  | .rxStepAwaitDataType _ => true
  | .rxStepAwaitPayload _ => true
  | .rxStepAwaitSuffixA _ => true
  | .rxStepAwaitSuffixB _ => true
  | .opEncode _ _ _ payload => bytesFit payload
  | .opSplit16 v => intFits v
  | .opDecode16 _ _ => true
  | .opFeed _ => true
  | .opRxByte _ => true
  | .opRxChunk bytes => bytesFit bytes
  | .opDecode _ payload => bytesFit payload
  | .opIntValue v => valueFits v
  | .opFloatValue v => valueFits v
  | .opTextValue v => valueFits v
  | .opAllocate callback => handleFits callback
  | .opResolve _ v => valueFits v
  | .opDiscardAll => true
  | .opIsExpired entry => entryFits entry
  | .opSendWrite _ payload => bytesFit payload
  | .opSendRead _ payload callback => bytesFit payload && handleFits callback
  | .opSetMotors left right => intFits left && intFits right
  | .opSetMotor _ speed => intFits speed
  | .opMoveForward speed => intFits speed
  | .opMoveBackward speed => intFits speed
  | .opTurnLeft speed => intFits speed
  | .opTurnRight speed => intFits speed
  | .opStop => true
  | .opSetLED _ _ _ _ => true
  | .opPlayTone pitch duration => intFits pitch && intFits duration
  | .opReadUltrasonic _ callback => handleFits callback
  | .opReadLightness _ callback => handleFits callback
  | .opReadLineFollower _ callback => handleFits callback
  | .opOnConnect => true
  | .opOnDisconnect => true
  | .opReset => true

end Sys2Proof
end

