-- ==== Sys2Proof/Decode.lean ====
section
/-! DEFINITION. From the bytes of a transaction to its instruction, total and rejecting by name, and the encoder
after it. Frames follow R81 to R91; a call is its selector (R100) and its operands (assumption log 2). -/

namespace Sys2Proof

/-! Byte order (R53): little-endian. -/

/-- A 16-bit quantity from its bytes in wire order. -/
def half (b0 b1 : Byte) : Half := b1 ++ b0

/-- A 32-bit quantity from its bytes in wire order. -/
def word (b0 b1 b2 b3 : Byte) : Word := b3 ++ b2 ++ b1 ++ b0

/-- The bytes of a 16-bit quantity in wire order. -/
def halfBytes (v : Half) : List Byte := [v.extractLsb' 0 8, v.extractLsb' 8 8]

/-- The bytes of a 32-bit quantity in wire order. -/
def wordBytes (v : Word) : List Byte :=
  [v.extractLsb' 0 8, v.extractLsb' 8 8, v.extractLsb' 16 8, v.extractLsb' 24 8]

/-! Operands of a call (assumption log 2): each reader takes its operand off the front of the bytes. -/

/-- A byte operand. -/
def getByte : List Byte → Option (Byte × List Byte)
  | b :: r => some (b, r)
  | [] => none

/-- Four bytes. -/
def getWord : List Byte → Option (Word × List Byte)
  | b0 :: b1 :: b2 :: b3 :: r => some (word b0 b1 b2 b3, r)
  | _ => none

/-- An integer operand: 32 bits, two's complement. -/
def getInt (bytes : List Byte) : Option (Int × List Byte) :=
  (getWord bytes).map fun x => (x.1.toInt, x.2)

/-- A handle operand: 32 bits. -/
def getHandle (bytes : List Byte) : Option (CallbackHandle × List Byte) :=
  (getWord bytes).map fun x => (⟨x.1.toNat⟩, x.2)

/-- The next `n` bytes. -/
def getCounted (n : Nat) (bytes : List Byte) : Option (List Byte × List Byte) :=
  if bytes.length < n then none else some (bytes.take n, bytes.drop n)

/-- A byte-sequence operand: its length in 16 bits, then its bytes. -/
def getBytes : List Byte → Option (List Byte × List Byte)
  | n0 :: n1 :: r => getCounted (half n0 n1).toNat r
  | _ => none

/-- A SensorValue operand: its variant (0 Int, 1 Float, 2 Text), then its content. -/
def getValue : List Byte → Option (SensorValue × List Byte)
  | k :: r =>
    match k.toNat with
    | 0 => (getWord r).map fun x => (.int x.1, x.2)
    | 1 => (getWord r).map fun x => (.float x.1, x.2)
    | 2 => do
        let (n, r) ← getByte r
        let (s, r) ← getCounted n.toNat r
        pure (.text s, r)
    | _ => none
  | [] => none

/-- An entry operand: index, issuedAt in 32 bits, handle. -/
def getEntry (bytes : List Byte) : Option (Entry × List Byte) := do
  let (i, r) ← getByte bytes
  let (t, r) ← getWord r
  let (h, r) ← getHandle r
  pure (⟨i, t.toNat, h⟩, r)

/-- Missing operand bytes reject the call by name. -/
def orBadOperands {α : Type} : Option α → Except DecodeError α
  | some a => .ok a
  | none => .error .badOperands

/-- What may follow the last operand: zero bytes only (assumption log 2). -/
def finish (x : Instr × List Byte) : Except DecodeError Instr :=
  if x.2.all (· == 0) then .ok x.1 else .error .trailingBytes

/-- The operations of R100 by selector. -/
def decodeCall : List Byte → Except DecodeError (Instr × List Byte)
  | [] => .error .badOperands
  | sel :: r =>
    match sel.toNat with
    | 0x00 => orBadOperands do
        let (index, r) ← getByte r
        let (mode, r) ← getByte r
        let (deviceId, r) ← getByte r
        let (payload, r) ← getBytes r
        pure (.opEncode index mode deviceId payload, r)
    | 0x01 => orBadOperands do let (v, r) ← getInt r; pure (.opSplit16 v, r)
    | 0x02 => orBadOperands do
        let (lo, r) ← getByte r
        let (hi, r) ← getByte r
        pure (.opDecode16 lo hi, r)
    | 0x03 => orBadOperands do let (b, r) ← getByte r; pure (.opFeed b, r)
    | 0x04 => orBadOperands do let (b, r) ← getByte r; pure (.opRxByte b, r)
    | 0x05 => orBadOperands do let (p, r) ← getBytes r; pure (.opRxChunk p, r)
    | 0x06 => orBadOperands do
        let (tag, r) ← getByte r
        let (p, r) ← getBytes r
        pure (.opDecode tag p, r)
    | 0x07 => orBadOperands do let (v, r) ← getValue r; pure (.opIntValue v, r)
    | 0x08 => orBadOperands do let (v, r) ← getValue r; pure (.opFloatValue v, r)
    | 0x09 => orBadOperands do let (v, r) ← getValue r; pure (.opTextValue v, r)
    | 0x0A => orBadOperands do let (h, r) ← getHandle r; pure (.opAllocate h, r)
    | 0x0B => orBadOperands do
        let (index, r) ← getByte r
        let (v, r) ← getValue r
        pure (.opResolve index v, r)
    | 0x0C => .ok (.opDiscardAll, r)
    | 0x0D => orBadOperands do let (e, r) ← getEntry r; pure (.opIsExpired e, r)
    | 0x0E => orBadOperands do
        let (deviceId, r) ← getByte r
        let (payload, r) ← getBytes r
        pure (.opSendWrite deviceId payload, r)
    | 0x0F => orBadOperands do
        let (deviceId, r) ← getByte r
        let (payload, r) ← getBytes r
        let (h, r) ← getHandle r
        pure (.opSendRead deviceId payload h, r)
    | 0x10 => orBadOperands do
        let (left, r) ← getInt r
        let (right, r) ← getInt r
        pure (.opSetMotors left right, r)
    | 0x11 => orBadOperands do
        let (port, r) ← getByte r
        let (speed, r) ← getInt r
        pure (.opSetMotor port speed, r)
    | 0x12 => orBadOperands do let (v, r) ← getInt r; pure (.opMoveForward v, r)
    | 0x13 => orBadOperands do let (v, r) ← getInt r; pure (.opMoveBackward v, r)
    | 0x14 => orBadOperands do let (v, r) ← getInt r; pure (.opTurnLeft v, r)
    | 0x15 => orBadOperands do let (v, r) ← getInt r; pure (.opTurnRight v, r)
    | 0x16 => .ok (.opStop, r)
    | 0x17 => orBadOperands do
        let (position, r) ← getByte r
        let (red, r) ← getByte r
        let (green, r) ← getByte r
        let (blue, r) ← getByte r
        pure (.opSetLED position red green blue, r)
    | 0x18 => orBadOperands do
        let (pitch, r) ← getInt r
        let (duration, r) ← getInt r
        pure (.opPlayTone pitch duration, r)
    | 0x19 => orBadOperands do
        let (port, r) ← getByte r
        let (h, r) ← getHandle r
        pure (.opReadUltrasonic port h, r)
    | 0x1A => orBadOperands do
        let (port, r) ← getByte r
        let (h, r) ← getHandle r
        pure (.opReadLightness port h, r)
    | 0x1B => orBadOperands do
        let (port, r) ← getByte r
        let (h, r) ← getHandle r
        pure (.opReadLineFollower port h, r)
    | 0x1C => .ok (.opOnConnect, r)
    | 0x1D => .ok (.opOnDisconnect, r)
    | 0x1E => .ok (.opReset, r)
    | _ => .error (.unknownSelector sel)

/-! Command frames (format C). -/

/-- The rows of a write frame (R91): the most specific one (assumption log 17). -/
def decodeWriteFrame (deviceId : Byte) (payload : List Byte) : Instr :=
  match payload with
  | [p0, p1, p2] =>
      if deviceId = Config.devMotor then .cmdMotor p0 (half p1 p2) else .frameCWrite deviceId payload
  | [p0, p1, p2, p3] =>
      if deviceId = Config.devMotorPair then .cmdMotorPair (half p0 p1) (half p2 p3)
      else if deviceId = Config.devBuzzer then .cmdTone (half p0 p1) (half p2 p3)
      else .frameCWrite deviceId payload
  | [p0, p1, p2, p3, p4] =>
      if deviceId = Config.devLed ∧ p0 = Config.ledSubcmd then .cmdLed p1 p2 p3 p4
      else .frameCWrite deviceId payload
  | _ => .frameCWrite deviceId payload

/-- The rows of a read frame (R91): the most specific one (assumption log 17). -/
def decodeReadFrame (index deviceId : Byte) (payload : List Byte) (callback : CallbackHandle) : Instr :=
  match payload with
  | [port] =>
      if deviceId = Config.devUltrasonic then .cmdReadUltrasonic index port callback
      else if deviceId = Config.devLight then .cmdReadLightness index port callback
      else if deviceId = Config.devLine then .cmdReadLineFollower index port callback
      else .frameCRead index deviceId payload callback
  | _ => .frameCRead index deviceId payload callback

/-- The suffix of a command frame, present only if TX_SUFFIX (R81). -/
def takeTxSuffix (r : List Byte) : Option (List Byte) :=
  if Config.txSuffix then
    match r with
    | a :: b :: r => if a = Config.suffixA ∧ b = Config.suffixB then some r else none
    | _ => none
  else some r

/-- A command frame by the layout of R81. A read frame is followed by the callback handle, which is no byte of
the frame (assumption log 16). -/
def decodeCommand : List Byte → Except DecodeError (Instr × List Byte)
  | a :: b :: len :: index :: mode :: deviceId :: r =>
    if a = Config.prefixA ∧ b = Config.prefixB ∧ 3 ≤ len.toNat then
      match getCounted (len.toNat - 3) r with
      | none => .error .notACommandFrame
      | some (payload, r) =>
        match takeTxSuffix r with
        | none => .error .notACommandFrame
        | some r =>
          if index = Config.idxWrite ∧ mode = Config.modeWrite then .ok (decodeWriteFrame deviceId payload, r)
          else if mode = Config.modeRead ∧ allocatable index = true then
            orBadOperands do
              let (callback, r) ← getHandle r
              pure (decodeReadFrame index deviceId payload callback, r)
          else .ok (.frameC index mode deviceId payload, r)
    else .error .notACommandFrame
  | _ => .error .notACommandFrame

/-! Inbound bytes (formats R and A). -/

/-- The payload and suffix of a numeric reply, by its tag (R84, R86, R87). -/
def decodeNumericReply (index tag : Byte) : List Byte → Option Instr
  | [p, x, y] =>
      if x = Config.suffixA ∧ y = Config.suffixB ∧ tag = Config.tagByte then some (.replyByte index p) else none
  | [p, q, x, y] =>
      if x = Config.suffixA ∧ y = Config.suffixB ∧ tag = Config.tagShort then some (.replyShort index (half p q))
      else none
  | [p, q, r, s, x, y] =>
      if x = Config.suffixA ∧ y = Config.suffixB then
        if tag = Config.tagFloat then some (.replyFloat index (word p q r s))
        else if tag = Config.tagDouble then some (.replyDouble index (word p q r s))
        else if tag = Config.tagLong then some (.replyLong index (word p q r s))
        else none
      else none
  | _ => none

/-- The length byte, the data and the suffix of a text reply (R88). -/
def decodeTextReply (index : Byte) : List Byte → Option Instr
  | len :: r =>
      if r.drop len.toNat = [Config.suffixA, Config.suffixB] then some (.replyText index (r.take len.toNat))
      else none
  | [] => none

/-- The inbound rows of the table: the write ack (R89) or one reply frame (R84). -/
def decodeReply : List Byte → Option Instr
  | a :: b :: index :: tag :: r =>
    if a = Config.prefixA ∧ b = Config.prefixB then
      if index = Config.suffixA ∧ tag = Config.suffixB ∧ r = [] then some .ack
      else if tag = Config.tagText then decodeTextReply index r
      else decodeNumericReply index tag r
    else none
  | _ => none

/-- The bytes of one RX delivery. Every byte sequence is acceptable input (R65): a whole reply frame or ack, a
single byte (`rxByte`), or any other chunk (`rxChunk`). -/
def decodeInbound (bytes : List Byte) : Instr :=
  match decodeReply bytes with
  | some i => i
  | none =>
    match bytes with
    | [b] => .opRxByte b
    | _ => .opRxChunk bytes

/-! One step of feed (format S). -/

/-- A receive-state code (R21) and the inbound byte. -/
def decodeRxStep : List Byte → Except DecodeError (Instr × List Byte)
  | code :: b :: r =>
    match code.toNat with
    | 0 => .ok (.rxStepAwaitPrefixA b, r)
    | 1 => .ok (.rxStepAwaitPrefixB b, r)
    | 2 => .ok (.rxStepAwaitIndex b, r)
    | 3 => .ok (.rxStepAwaitDataType b, r)
    | 4 => .ok (.rxStepAwaitPayload b, r)
    | 5 => .ok (.rxStepAwaitSuffixA b, r)
    | 6 => .ok (.rxStepAwaitSuffixB b, r)
    | _ => .error .badRxStep
  | _ => .error .badRxStep

/-- The instruction of a transaction. -/
def decode (t : Transaction) : Except DecodeError Instr :=
  match t.channel with
  | .call => (decodeCall t.bytes).bind finish
  | .command => (decodeCommand t.bytes).bind finish
  | .inbound => .ok (decodeInbound t.bytes)
  | .rxStep => (decodeRxStep t.bytes).bind finish

/-! The encoder. -/

/-- An integer operand. -/
def putInt (v : Int) : List Byte := wordBytes (BitVec.ofInt 32 v)

/-- A handle operand. -/
def putHandle (h : CallbackHandle) : List Byte := wordBytes (BitVec.ofNat 32 h.id)

/-- A byte-sequence operand. -/
def putBytes (p : List Byte) : List Byte := halfBytes (BitVec.ofNat 16 p.length) ++ p

/-- A SensorValue operand. -/
def putValue : SensorValue → List Byte
  | .int n => 0 :: wordBytes n
  | .float w => 1 :: wordBytes w
  | .text s => 2 :: BitVec.ofNat 8 s.length :: s

/-- An entry operand. -/
def putEntry (e : Entry) : List Byte :=
  e.index :: (wordBytes (BitVec.ofNat 32 e.issuedAt) ++ putHandle e.onResolve)

/-- The layout of a command frame, R81. -/
def commandFrame (index mode deviceId : Byte) (payload : List Byte) : List Byte :=
  [Config.prefixA, Config.prefixB, BitVec.ofNat 8 (3 + payload.length), index, mode, deviceId] ++ payload
    ++ (if Config.txSuffix then [Config.suffixA, Config.suffixB] else [])

/-- The layout of a reply frame, R84; for a text reply `payload` is the length byte and the data (R88). -/
def replyFrame (index tag : Byte) (payload : List Byte) : List Byte :=
  [Config.prefixA, Config.prefixB, index, tag] ++ payload ++ [Config.suffixA, Config.suffixB]

/-- The transaction of an instruction. -/
def encode : Instr → Transaction
  | .frameC index mode deviceId payload => ⟨.command, commandFrame index mode deviceId payload⟩
  | .frameCWrite deviceId payload =>
      ⟨.command, commandFrame Config.idxWrite Config.modeWrite deviceId payload⟩
  | .frameCRead index deviceId payload callback =>
      ⟨.command, commandFrame index Config.modeRead deviceId payload ++ putHandle callback⟩
  | .cmdMotorPair left right =>
      ⟨.command, commandFrame Config.idxWrite Config.modeWrite Config.devMotorPair
        (halfBytes left ++ halfBytes right)⟩
  | .cmdMotor port speed =>
      ⟨.command, commandFrame Config.idxWrite Config.modeWrite Config.devMotor (port :: halfBytes speed)⟩
  | .cmdLed position red green blue =>
      ⟨.command, commandFrame Config.idxWrite Config.modeWrite Config.devLed
        [Config.ledSubcmd, position, red, green, blue]⟩
  | .cmdTone pitch duration =>
      ⟨.command, commandFrame Config.idxWrite Config.modeWrite Config.devBuzzer
        (halfBytes pitch ++ halfBytes duration)⟩
  | .cmdReadUltrasonic index port callback =>
      ⟨.command, commandFrame index Config.modeRead Config.devUltrasonic [port] ++ putHandle callback⟩
  | .cmdReadLightness index port callback =>
      ⟨.command, commandFrame index Config.modeRead Config.devLight [port] ++ putHandle callback⟩
  | .cmdReadLineFollower index port callback =>
      ⟨.command, commandFrame index Config.modeRead Config.devLine [port] ++ putHandle callback⟩
  | .replyByte index value => ⟨.inbound, replyFrame index Config.tagByte [value]⟩
  | .replyFloat index pattern => ⟨.inbound, replyFrame index Config.tagFloat (wordBytes pattern)⟩
  | .replyShort index value => ⟨.inbound, replyFrame index Config.tagShort (halfBytes value)⟩
  | .replyDouble index pattern => ⟨.inbound, replyFrame index Config.tagDouble (wordBytes pattern)⟩
  | .replyLong index value => ⟨.inbound, replyFrame index Config.tagLong (wordBytes value)⟩
  | .replyText index text =>
      ⟨.inbound, replyFrame index Config.tagText (BitVec.ofNat 8 text.length :: text)⟩
  | .ack => ⟨.inbound, [Config.prefixA, Config.prefixB, Config.suffixA, Config.suffixB]⟩
  | .rxStepAwaitPrefixA b => ⟨.rxStep, [0, b]⟩
  | .rxStepAwaitPrefixB b => ⟨.rxStep, [1, b]⟩
  | .rxStepAwaitIndex b => ⟨.rxStep, [2, b]⟩
  | .rxStepAwaitDataType b => ⟨.rxStep, [3, b]⟩
  | .rxStepAwaitPayload b => ⟨.rxStep, [4, b]⟩
  | .rxStepAwaitSuffixA b => ⟨.rxStep, [5, b]⟩
  | .rxStepAwaitSuffixB b => ⟨.rxStep, [6, b]⟩
  | .opEncode index mode deviceId payload => ⟨.call, 0x00 :: index :: mode :: deviceId :: putBytes payload⟩
  | .opSplit16 v => ⟨.call, 0x01 :: putInt v⟩
  | .opDecode16 lo hi => ⟨.call, [0x02, lo, hi]⟩
  | .opFeed b => ⟨.call, [0x03, b]⟩
  | .opRxByte b => ⟨.call, [0x04, b]⟩
  | .opRxChunk bytes => ⟨.call, 0x05 :: putBytes bytes⟩
  | .opDecode tag payload => ⟨.call, 0x06 :: tag :: putBytes payload⟩
  | .opIntValue v => ⟨.call, 0x07 :: putValue v⟩
  | .opFloatValue v => ⟨.call, 0x08 :: putValue v⟩
  | .opTextValue v => ⟨.call, 0x09 :: putValue v⟩
  | .opAllocate callback => ⟨.call, 0x0A :: putHandle callback⟩
  | .opResolve index v => ⟨.call, 0x0B :: index :: putValue v⟩
  | .opDiscardAll => ⟨.call, [0x0C]⟩
  | .opIsExpired entry => ⟨.call, 0x0D :: putEntry entry⟩
  | .opSendWrite deviceId payload => ⟨.call, 0x0E :: deviceId :: putBytes payload⟩
  | .opSendRead deviceId payload callback =>
      ⟨.call, 0x0F :: deviceId :: (putBytes payload ++ putHandle callback)⟩
  | .opSetMotors left right => ⟨.call, 0x10 :: (putInt left ++ putInt right)⟩
  | .opSetMotor port speed => ⟨.call, 0x11 :: port :: putInt speed⟩
  | .opMoveForward speed => ⟨.call, 0x12 :: putInt speed⟩
  | .opMoveBackward speed => ⟨.call, 0x13 :: putInt speed⟩
  | .opTurnLeft speed => ⟨.call, 0x14 :: putInt speed⟩
  | .opTurnRight speed => ⟨.call, 0x15 :: putInt speed⟩
  | .opStop => ⟨.call, [0x16]⟩
  | .opSetLED position red green blue => ⟨.call, [0x17, position, red, green, blue]⟩
  | .opPlayTone pitch duration => ⟨.call, 0x18 :: (putInt pitch ++ putInt duration)⟩
  | .opReadUltrasonic port callback => ⟨.call, 0x19 :: port :: putHandle callback⟩
  | .opReadLightness port callback => ⟨.call, 0x1A :: port :: putHandle callback⟩
  | .opReadLineFollower port callback => ⟨.call, 0x1B :: port :: putHandle callback⟩
  | .opOnConnect => ⟨.call, [0x1C]⟩
  | .opOnDisconnect => ⟨.call, [0x1D]⟩
  | .opReset => ⟨.call, [0x1E]⟩

/-! The words of spec/opcode_table.json (assumption log 3). -/

/-- The bytes of a table word, the first wire byte the most significant one, as the table writes its match and
mask and as the reader's `fixed` of ACK reads them. -/
def tableBytesFirstHigh (nbits w : Nat) : List Byte :=
  (List.range (nbits / 8)).map fun k => BitVec.ofNat 8 (w / 2 ^ (8 * (nbits / 8 - 1 - k)))

/-- The bytes of a table word, the first byte the least significant one. -/
def tableBytesFirstLow (nbits w : Nat) : List Byte :=
  (List.range (nbits / 8)).map fun k => BitVec.ofNat 8 (w / 2 ^ (8 * k))

/-- Both frames' first two bytes. -/
def startsWithFramePair : List Byte → Bool
  | a :: b :: _ => a == Config.prefixA && b == Config.prefixB
  | _ => false

/-- The operand bytes a table word does not give: zero. -/
def operandZeros : List Byte := List.replicate 16 0

/-- The transaction a table word stands for: 8 bits are a selector (R100), more are a frame; the channel is the
one whose row the bytes match. -/
def tableTransaction (nbits w : Nat) : Transaction :=
  if nbits ≤ 8 then ⟨.call, tableBytesFirstLow nbits w ++ operandZeros⟩
  else
    let high := tableBytesFirstHigh nbits w
    let bytes := if startsWithFramePair high then high else tableBytesFirstLow nbits w
    match decodeReply bytes with
    | some _ => ⟨.inbound, bytes⟩
    | none => ⟨.command, bytes ++ operandZeros⟩

/-- The instruction the decoder reads from a table word. -/
def decodeTableWord (nbits w : Nat) : Option Instr :=
  match decode (tableTransaction nbits w) with
  | .ok i => some i
  | .error _ => none

end Sys2Proof
end

