-- ==== Sys2Proof/Machine/Payload.lean ====
section
/-! DEFINITION. The Payload Decoder and the SensorValue accessors (42_payload_decoder). Pure (R180). -/

namespace Sys2Proof.Machine

/-- `decode` (R181 to R187); outside its domain no result (R188). -/
def decodePayload (tag : Byte) (p : List Byte) : Option SensorValue :=
  if tag = Config.tagByte then
    match p with
    | [p0] => some (.int (p0.zeroExtend 32))
    | _ => none
  else if tag = Config.tagShort then
    match p with
    | [p0, p1] => some (.int (compose2 p0 p1))
    | _ => none
  else if tag = Config.tagLong then
    match p with
    | [p0, p1, p2, p3] => some (.int (compose4 p0 p1 p2 p3))
    | _ => none
  else if tag = Config.tagFloat then
    match p with
    | [p0, p1, p2, p3] => some (.float (compose4 p0 p1 p2 p3))
    | _ => none
  else if tag = Config.tagDouble then
    match p with
    | [p0, p1, p2, p3] => some (.float (compose4 p0 p1 p2 p3))
    | _ => none
  else if tag = Config.tagText then
    if p.length ≤ Config.textMax then some (.text p) else none
  else none

/-- `intValue` (R190): zero on a mismatch. -/
def intValue : SensorValue → Word
  | .int n => n
  | .float _ => 0
  | .text _ => 0

/-- `floatValue` (R191): the pattern of positive zero on a mismatch. -/
def floatValue : SensorValue → Word
  | .float w => w
  | .int _ => 0
  | .text _ => 0

/-- `textValue` (R192): the empty text on a mismatch. -/
def textValue : SensorValue → List Byte
  | .text s => s
  | .int _ => []
  | .float _ => []

/-- OP.decode (R181). -/
def execDecode (tag : Byte) (payload : List Byte) (s : State) : Result :=
  match decodePayload tag payload with
  | some v => .next (s.setRet (.value v))
  | none => .refused .decodeOutOfDomain

/-- OP.intValue (R190). -/
def execIntValue (v : SensorValue) (s : State) : Result := .next (s.setRet (.int (intValue v).toNat))

/-- OP.floatValue (R191). -/
def execFloatValue (v : SensorValue) (s : State) : Result := .next (s.setRet (.pattern (floatValue v)))

/-- OP.textValue (R192). -/
def execTextValue (v : SensorValue) (s : State) : Result := .next (s.setRet (.bytes (textValue v)))

/-! How a value reads (R185, R187): no operation of the block computes these. -/

/-- Bit 31 of a float pattern, the sign (R185; PRESUMED, assumption log 24). -/
def floatSign (w : Word) : Bool := w.getLsbD 31
/-- Bits 30 to 23, the exponent (R185; PRESUMED, assumption log 24). -/
def floatExponent (w : Word) : Nat := (w.extractLsb' 23 8).toNat
/-- Bits 22 to 0, the fraction (R185; PRESUMED, assumption log 24). -/
def floatFraction (w : Word) : Nat := (w.extractLsb' 0 23).toNat

/-- A UTF-8 continuation byte (PRESUMED, assumption log 23). -/
def isContinuation (b : Byte) : Bool := b &&& 0xC0 == 0x80

/-- The code points of valid UTF-8, none where the bytes are not valid (PRESUMED, assumption log 23). -/
def utf8CodePoints : List Byte → Option (List Nat)
  | [] => some []
  | b0 :: r0 =>
    if b0.toNat < 0x80 then (utf8CodePoints r0).map (b0.toNat :: ·)
    else
      match r0 with
      | [] => none
      | b1 :: r1 =>
        if !isContinuation b1 then none
        else if 0xC2 ≤ b0.toNat ∧ b0.toNat < 0xE0 then
          (utf8CodePoints r1).map ((b0.toNat % 32 * 64 + b1.toNat % 64) :: ·)
        else
          match r1 with
          | [] => none
          | b2 :: r2 =>
            if !isContinuation b2 then none
            else if 0xE0 ≤ b0.toNat ∧ b0.toNat < 0xF0 then
              let c := b0.toNat % 16 * 4096 + b1.toNat % 64 * 64 + b2.toNat % 64
              if c < 0x800 ∨ (0xD800 ≤ c ∧ c < 0xE000) then none else (utf8CodePoints r2).map (c :: ·)
            else
              match r2 with
              | [] => none
              | b3 :: r3 =>
                let c := b0.toNat % 8 * 262144 + b1.toNat % 64 * 4096 + b2.toNat % 64 * 64 + b3.toNat % 64
                if isContinuation b3 ∧ 0xF0 ≤ b0.toNat ∧ b0.toNat < 0xF5 ∧ 0x10000 ≤ c ∧ c < 0x110000 then
                  (utf8CodePoints r3).map (c :: ·)
                else none

/-- UTF8_DECODE (R8, R187, D11): standard on valid input, a free value on invalid input (U7). -/
def utf8Decode (s : List Byte) : List Nat :=
  match utf8CodePoints s with
  | some cs => cs
  | none => Config.utf8OnInvalid s

end Sys2Proof.Machine
end

