-- ==== Sys2Proof/Machine/Receive.lean ====
section
/-! DEFINITION. The Receive State Machine and dispatch (41_receive_state_machine). -/

namespace Sys2Proof.Machine

/-- AwaitPrefixA (R141). -/
def feedAwaitPrefixA (b : Byte) (s : State) : State :=
  if b = Config.prefixA then s.setRxs .awaitPrefixB else s.setRxs .awaitPrefixA

/-- AwaitPrefixB (R142). -/
def feedAwaitPrefixB (b : Byte) (s : State) : State :=
  if b = Config.prefixB then s.setRxs .awaitIndex else raiseResync s

/-- AwaitIndex (R143). -/
def feedAwaitIndex (b : Byte) (s : State) : State := (s.setRxIndex b).setRxs .awaitDataType

/-- AwaitDataType (R144). -/
def feedAwaitDataType (b : Byte) (s : State) : State :=
  if knownTag b then
    ((((s.setRxType b).clearPbuf).setRxRemaining (remainingAfterTag b)).setRxLenPending
      (lenPendingAfterTag b)).setRxs .awaitPayload
  else raiseResync s

/-- The register part of AwaitPayload (R145): the length byte of a text sets the count, any other byte is stored
and counted. The count is an 8-bit register; the subtraction meets a count of 0 in no reachable state
(assumption log 20). -/
def countOrStore (b : Byte) (s : State) : State :=
  if s.rxLenPending then (s.setRxRemaining b).setRxLenPending lenPendingAfterPayloadByte
  else (s.appendPbuf b).setRxRemaining (s.rxRemaining - 1)

/-- AwaitPayload (R145). -/
def feedAwaitPayload (b : Byte) (s : State) : State :=
  let t := countOrStore b s
  if t.rxRemaining = 0 then t.setRxs .awaitSuffixA else t.setRxs .awaitPayload

/-- AwaitSuffixA (R146). -/
def feedAwaitSuffixA (b : Byte) (s : State) : State :=
  if b = Config.suffixA then s.setRxs .awaitSuffixB else raiseResync s

/-- The register part of AwaitSuffixB (R147): AwaitPrefixA in both cases. -/
def feedAwaitSuffixB (s : State) : State := s.setRxs .awaitPrefixA

/-- The frame AwaitSuffixB emits (R147, R31): all three fields as they stand. -/
def emittedFrame (b : Byte) (s : State) : Option CompletedFrame :=
  if b = Config.suffixB then some ⟨s.rxIndex, s.rxType, memRead s 0 s.pbuf.length⟩ else none

/-- `feed` (R140): the step that RXS selects, and the completed frame, if any. -/
def feed (b : Byte) (s : State) : State × Option CompletedFrame :=
  match s.rxs with
  | .awaitPrefixA => (feedAwaitPrefixA b s, none)
  | .awaitPrefixB => (feedAwaitPrefixB b s, none)
  | .awaitIndex => (feedAwaitIndex b s, none)
  | .awaitDataType => (feedAwaitDataType b s, none)
  | .awaitPayload => (feedAwaitPayload b s, none)
  | .awaitSuffixA => (feedAwaitSuffixA b s, none)
  | .awaitSuffixB => (feedAwaitSuffixB s, emittedFrame b s)

/-- Dispatch of a completed frame (R150, R213, C10): on a hit the payload is decoded and the entry resolved; a miss
is dropped silently. A frame the parser emits always decodes (R181; assumption log 22). -/
def dispatch (f : CompletedFrame) (s : State) : Result :=
  match tblLookup s.tbl f.index with
  | none => .next s
  | some _ =>
    match decodePayload f.type f.payload with
    | some v => .next (resolve f.index v s).1
    | none => .refused .decodeOutOfDomain

/-- `rxByte` (R150). -/
def rxByte (b : Byte) (s : State) : Result :=
  match feed b s with
  | (t, none) => .next t
  | (t, some f) => dispatch f t

/-- `rxChunk` (R151): `rxByte` of each byte in order. -/
def rxChunk : List Byte → State → Result
  | [], s => .next s
  | b :: bs, s =>
    match rxByte b s with
    | .next t => rxChunk bs t
    | .fault f => .fault f
    | .refused r => .refused r

/-- OP.feed (R140). -/
def execFeed (b : Byte) (s : State) : Result := .next ((feed b s).1.setRet (.frame (feed b s).2))

/-- OP.rxByte (R150). -/
def execRxByte (b : Byte) (s : State) : Result := returning .none (rxByte b s)

/-- OP.rxChunk (R151). -/
def execRxChunk (bytes : List Byte) (s : State) : Result := returning .none (rxChunk bytes s)

/-- A step of `feed` by name: it is the one that RXS selects, or it is no step at all (R140, assumption
log 19). -/
def selectedStep (at_ : RxState) (t : State) (f : Option CompletedFrame) (s : State) : Result :=
  if s.rxs = at_ then .next (t.setRet (.frame f)) else .refused .stepNotSelected

/-- RXSTEP.AwaitPrefixA (R141). -/
def execRxStepAwaitPrefixA (b : Byte) (s : State) : Result :=
  selectedStep .awaitPrefixA (feedAwaitPrefixA b s) none s

/-- RXSTEP.AwaitPrefixB (R142). -/
def execRxStepAwaitPrefixB (b : Byte) (s : State) : Result :=
  selectedStep .awaitPrefixB (feedAwaitPrefixB b s) none s

/-- RXSTEP.AwaitIndex (R143). -/
def execRxStepAwaitIndex (b : Byte) (s : State) : Result :=
  selectedStep .awaitIndex (feedAwaitIndex b s) none s

/-- RXSTEP.AwaitDataType (R144). -/
def execRxStepAwaitDataType (b : Byte) (s : State) : Result :=
  selectedStep .awaitDataType (feedAwaitDataType b s) none s

/-- RXSTEP.AwaitPayload (R145). -/
def execRxStepAwaitPayload (b : Byte) (s : State) : Result :=
  selectedStep .awaitPayload (feedAwaitPayload b s) none s

/-- RXSTEP.AwaitSuffixA (R146). -/
def execRxStepAwaitSuffixA (b : Byte) (s : State) : Result :=
  selectedStep .awaitSuffixA (feedAwaitSuffixA b s) none s

/-- RXSTEP.AwaitSuffixB (R147). -/
def execRxStepAwaitSuffixB (b : Byte) (s : State) : Result :=
  selectedStep .awaitSuffixB (feedAwaitSuffixB s) (emittedFrame b s) s

end Sys2Proof.Machine
end

