-- ==== Sys2Proof/Machine/Inbound.lean ====
section
/-! DEFINITION. The reply frames (formats R and A): a frame that crosses RX is its bytes, delivered as one chunk
(R84, R89, R151; assumption log 18). The parser may be anywhere when the first byte arrives (R154). -/

namespace Sys2Proof.Machine

/-- The bytes of a whole frame arrive on RX as one chunk (R151). -/
def deliver (bytes : List Byte) (s : State) : Result := returning .none (rxChunk bytes s)

/-- REPLY.BYTE (R84, R182). -/
def execReplyByte (index value : Byte) (s : State) : Result := deliver (replyFrame index Config.tagByte [value]) s

/-- REPLY.FLOAT (R84, R185). -/
def execReplyFloat (index : Byte) (pattern : Word) (s : State) : Result :=
  deliver (replyFrame index Config.tagFloat (wordBytes pattern)) s

/-- REPLY.SHORT (R84, R183). -/
def execReplyShort (index : Byte) (value : Half) (s : State) : Result :=
  deliver (replyFrame index Config.tagShort (halfBytes value)) s

/-- REPLY.DOUBLE (R84, R186): four payload bytes. -/
def execReplyDouble (index : Byte) (pattern : Word) (s : State) : Result :=
  deliver (replyFrame index Config.tagDouble (wordBytes pattern)) s

/-- REPLY.LONG (R84, R184). -/
def execReplyLong (index : Byte) (value : Word) (s : State) : Result :=
  deliver (replyFrame index Config.tagLong (wordBytes value)) s

/-- REPLY.TEXT (R84, R88, R187): the length byte, then the data. A text above TEXT_MAX bytes is no reply
frame (R88), and nothing decodes to it. -/
def execReplyText (index : Byte) (text : List Byte) (s : State) : Result :=
  if text.length ≤ Config.textMax then
    deliver (replyFrame index Config.tagText (BitVec.ofNat 8 text.length :: text)) s
  else .refused .textTooLong

/-- ACK (R89, R152). -/
def execAck (s : State) : Result :=
  deliver [Config.prefixA, Config.prefixB, Config.suffixA, Config.suffixB] s

end Sys2Proof.Machine
end

