-- ==== Sys2Proof/Machine/Dispatch.lean ====
section
/-! DEFINITION. One arm for each row of spec/opcode_table.json. -/

namespace Sys2Proof.Machine

def exec (i : Instr) (s : State) : Host.Outcome State Fault Refusal :=
  match i with
  | .frameC index mode deviceId payload => Sys2Proof.Machine.execFrameC index mode deviceId payload s
  | .frameCWrite deviceId payload => Sys2Proof.Machine.execFrameCWrite deviceId payload s
  | .frameCRead index deviceId payload callback => Sys2Proof.Machine.execFrameCRead index deviceId payload callback s
  | .cmdMotorPair left right => Sys2Proof.Machine.execCmdMotorPair left right s
  | .cmdMotor port speed => Sys2Proof.Machine.execCmdMotor port speed s
  | .cmdLed position red green blue => Sys2Proof.Machine.execCmdLed position red green blue s
  | .cmdTone pitch duration => Sys2Proof.Machine.execCmdTone pitch duration s
  | .cmdReadUltrasonic index port callback => Sys2Proof.Machine.execCmdReadUltrasonic index port callback s
  | .cmdReadLightness index port callback => Sys2Proof.Machine.execCmdReadLightness index port callback s
  | .cmdReadLineFollower index port callback => Sys2Proof.Machine.execCmdReadLineFollower index port callback s
  | .replyByte index value => Sys2Proof.Machine.execReplyByte index value s
  | .replyFloat index pattern => Sys2Proof.Machine.execReplyFloat index pattern s
  | .replyShort index value => Sys2Proof.Machine.execReplyShort index value s
  | .replyDouble index pattern => Sys2Proof.Machine.execReplyDouble index pattern s
  | .replyLong index value => Sys2Proof.Machine.execReplyLong index value s
  | .replyText index text => Sys2Proof.Machine.execReplyText index text s
  | .ack => Sys2Proof.Machine.execAck s
  | .rxStepAwaitPrefixA b => Sys2Proof.Machine.execRxStepAwaitPrefixA b s
  | .rxStepAwaitPrefixB b => Sys2Proof.Machine.execRxStepAwaitPrefixB b s
  | .rxStepAwaitIndex b => Sys2Proof.Machine.execRxStepAwaitIndex b s
  | .rxStepAwaitDataType b => Sys2Proof.Machine.execRxStepAwaitDataType b s
  | .rxStepAwaitPayload b => Sys2Proof.Machine.execRxStepAwaitPayload b s
  | .rxStepAwaitSuffixA b => Sys2Proof.Machine.execRxStepAwaitSuffixA b s
  | .rxStepAwaitSuffixB b => Sys2Proof.Machine.execRxStepAwaitSuffixB b s
  | .opEncode index mode deviceId payload => Sys2Proof.Machine.execEncode index mode deviceId payload s
  | .opSplit16 v => Sys2Proof.Machine.execSplit16 v s
  | .opDecode16 lo hi => Sys2Proof.Machine.execDecode16 lo hi s
  | .opFeed b => Sys2Proof.Machine.execFeed b s
  | .opRxByte b => Sys2Proof.Machine.execRxByte b s
  | .opRxChunk bytes => Sys2Proof.Machine.execRxChunk bytes s
  | .opDecode tag payload => Sys2Proof.Machine.execDecode tag payload s
  | .opIntValue v => Sys2Proof.Machine.execIntValue v s
  | .opFloatValue v => Sys2Proof.Machine.execFloatValue v s
  | .opTextValue v => Sys2Proof.Machine.execTextValue v s
  | .opAllocate callback => Sys2Proof.Machine.execAllocate callback s
  | .opResolve index v => Sys2Proof.Machine.execResolve index v s
  | .opDiscardAll => Sys2Proof.Machine.execDiscardAll s
  | .opIsExpired entry => Sys2Proof.Machine.execIsExpired entry s
  | .opSendWrite deviceId payload => Sys2Proof.Machine.execSendWrite deviceId payload s
  | .opSendRead deviceId payload callback => Sys2Proof.Machine.execSendRead deviceId payload callback s
  | .opSetMotors left right => Sys2Proof.Machine.execSetMotors left right s
  | .opSetMotor port speed => Sys2Proof.Machine.execSetMotor port speed s
  | .opMoveForward speed => Sys2Proof.Machine.execMoveForward speed s
  | .opMoveBackward speed => Sys2Proof.Machine.execMoveBackward speed s
  | .opTurnLeft speed => Sys2Proof.Machine.execTurnLeft speed s
  | .opTurnRight speed => Sys2Proof.Machine.execTurnRight speed s
  | .opStop => Sys2Proof.Machine.execStop s
  | .opSetLED position red green blue => Sys2Proof.Machine.execSetLED position red green blue s
  | .opPlayTone pitch duration => Sys2Proof.Machine.execPlayTone pitch duration s
  | .opReadUltrasonic port callback => Sys2Proof.Machine.execReadUltrasonic port callback s
  | .opReadLightness port callback => Sys2Proof.Machine.execReadLightness port callback s
  | .opReadLineFollower port callback => Sys2Proof.Machine.execReadLineFollower port callback s
  | .opOnConnect => Sys2Proof.Machine.execOnConnect s
  | .opOnDisconnect => Sys2Proof.Machine.execOnDisconnect s
  | .opReset => Sys2Proof.Machine.execReset s

end Sys2Proof.Machine
end

