-- ==== Sys2Proof/Machine/Fetch.lean ====
section
/-! DEFINITION. The delivery of the next transaction. The ENGINE has no program counter and no program memory
(R10, R63); what it meets next is the oldest transaction the environment has pending (assumption log 1). -/

namespace Sys2Proof.Machine

/-- The next transaction and the state with it taken off the queue. -/
def fetch (s : State) : Option (Transaction × State) :=
  match s.pending with
  | [] => none
  | t :: rest => some (t, s.setPending rest)

/-- Put a transaction in front of the queue, so that it is the next one. -/
def deliverNext (t : Transaction) (s : State) : State := s.setPending (t :: s.pending)

end Sys2Proof.Machine
end

