-- ==== Sys2Proof/Machine/Step.lean ====
section
/-! DEFINITION. One step: one atomic transaction (R5, R57). -/

namespace Sys2Proof.Machine

/-- One step takes the oldest pending transaction and executes its instruction. With nothing pending the ENGINE
holds its state (R7, R301; assumption log 4). -/
def step (s : State) : Host.Outcome State Fault Refusal :=
  match fetch s with
  | none => .next s
  | some (t, s') =>
    match decode t with
    | .ok i => exec i s'
    | .error e => .refused (.undecodable e)

/-- The state whose next transaction is the one a word of spec/opcode_table.json stands for (assumption logs 3
and 4). -/
def State.withFetchWord (s : State) (nbits w : Nat) : State := deliverNext (tableTransaction nbits w) s

end Sys2Proof.Machine
end

