-- ==== Sys2Proof/Safety.lean ====
section
/-! DEFINITION. The invariant of R33 and what a safe step is. -/

namespace Sys2Proof.Machine

/-- A payload of `n` bytes is what the tag demands (R31, R181): the table's length for a numeric tag, at most
TEXT_MAX for text. -/
def payloadFits (tag : Byte) (n : Nat) : Prop :=
  knownTag tag = true ∧ (if tag = Config.tagText then n ≤ Config.textMax else n = (tagLength tag).toNat)

/-- I-4 to I-7 of R33 (less "RX_INDEX has been written since reset", of which State keeps no record). For a text
frame the declared length is |PBUF| + RX_REMAINING, a byte value. -/
def ParserConsistent (s : State) : Prop :=
  match s.rxs with
  | .awaitPrefixA => True
  | .awaitPrefixB => True
  | .awaitIndex => True
  | .awaitDataType => True
  | .awaitPayload =>
    if s.rxLenPending then s.rxType = Config.tagText ∧ s.rxRemaining = 1 ∧ s.pbuf = []
    else 1 ≤ s.rxRemaining.toNat ∧ payloadFits s.rxType (s.pbuf.length + s.rxRemaining.toNat)
  | .awaitSuffixA => s.rxRemaining = 0 ∧ payloadFits s.rxType s.pbuf.length
  | .awaitSuffixB => s.rxRemaining = 0 ∧ payloadFits s.rxType s.pbuf.length

/-- The invariant of R33, with the bound of R25 on PBUF and the canonical form of the table. -/
structure Invariant (s : State) : Prop where
  /-- I-1 -/
  cursor_range : 2 ≤ s.cursor.toNat ∧ s.cursor.toNat ≤ 254
  /-- I-2 -/
  live_keys : ∀ p ∈ s.tbl, 2 ≤ p.1.toNat ∧ p.1.toNat ≤ 254
  /-- I-3 -/
  keys_match : ∀ p ∈ s.tbl, p.2.index = p.1
  /-- the table's canonical form (assumption log 27) -/
  table_wf : s.tbl.wf
  /-- R25 -/
  pbuf_bound : s.pbuf.length ≤ Config.textMax
  /-- I-4 to I-7 -/
  parser : ParserConsistent s

/-- A run is safe as long as its steps answer next states. -/
def SafeStep (s : State) : Prop := ∃ t, step s = .next t

/-- The next transaction is a delivery of bytes on RX (R6, R65). -/
def inboundNext (bytes : List Byte) (s : State) : Prop :=
  ∃ rest, s.pending = ⟨.inbound, bytes⟩ :: rest

/-- `n` calls of `allocate` in a row with the handles `h 0`, `h 1`, ... (R217): the state after them. -/
def allocateMany (h : Nat → CallbackHandle) : Nat → State → State
  | 0, s => s
  | n + 1, s => allocate (h n) (allocateMany h n s)

/-- Feed bytes one at a time (R140): the state after them. -/
def feedMany : List Byte → State → State
  | [], s => s
  | b :: bs, s => feedMany bs (feed b s).1

/-- Feed bytes one at a time (R140): the frames completed on the way, in order. -/
def framesOf : List Byte → State → List CompletedFrame
  | [], _ => []
  | b :: bs, s => (feed b s).2.toList ++ framesOf bs (feed b s).1

/-- The receive registers (R20). -/
def receiveRegisters (s : State) : RxState × Byte × Byte × Byte × Bool × List Byte :=
  (s.rxs, s.rxIndex, s.rxType, s.rxRemaining, s.rxLenPending, s.pbuf)

/-- A table without the times of its entries (R29, R35). -/
def Table.forgetTimes (t : Table) : Table := t.map fun p => (p.1, { p.2 with issuedAt := 0 })

/-- A state without the times of its entries: two states with the same `forgetTimes` are equal up to `issuedAt`. -/
def State.forgetTimes (s : State) : State := { s with tbl := s.tbl.forgetTimes }

/-- An outcome without the times of its entries. -/
def forgetTimes : Result → Result
  | .next s => .next s.forgetTimes
  | .fault f => .fault f
  | .refused r => .refused r

/-- What an instruction touches, by R100's column "Kind" and the rules of each operation; a frame row and an RXSTEP
row by the reading of assumption logs 15, 16, 18 and 19. -/
inductive Effect where
  /-- nothing but the value handed back (R58, R120, R180, R258) -/
  | nothing
  /-- the receive registers: one step of `feed` (R140) -/
  | feeds
  /-- the receive registers and, by dispatch, TBL and CB (R150) -/
  | receives
  /-- TBL and CURSOR (R211) -/
  | allocates
  /-- TBL and CB (R212) -/
  | resolves
  /-- TBL (R214, R259) -/
  | discards
  /-- TX (R240) -/
  | writes
  /-- TX and, where the index is the allocated one, TBL and CURSOR (R241) -/
  | reads
  /-- all state (R320) -/
  | resets
  deriving DecidableEq, Repr

/-- What each instruction touches. -/
def effectOf : Instr → Effect
  | .frameC _ _ _ _ => .writes
  | .frameCWrite _ _ => .writes
  | .frameCRead _ _ _ _ => .reads
  | .cmdMotorPair _ _ => .writes
  | .cmdMotor _ _ => .writes
  | .cmdLed _ _ _ _ => .writes
  | .cmdTone _ _ => .writes
  | .cmdReadUltrasonic _ _ _ => .reads
  | .cmdReadLightness _ _ _ => .reads
  | .cmdReadLineFollower _ _ _ => .reads
  | .replyByte _ _ => .receives
  | .replyFloat _ _ => .receives
  | .replyShort _ _ => .receives
  | .replyDouble _ _ => .receives
  | .replyLong _ _ => .receives
  | .replyText _ _ => .receives
  | .ack => .receives
  | .rxStepAwaitPrefixA _ => .feeds
  | .rxStepAwaitPrefixB _ => .feeds
  | .rxStepAwaitIndex _ => .feeds
  | .rxStepAwaitDataType _ => .feeds
  | .rxStepAwaitPayload _ => .feeds
  | .rxStepAwaitSuffixA _ => .feeds
  | .rxStepAwaitSuffixB _ => .feeds
  | .opEncode _ _ _ _ => .nothing
  | .opSplit16 _ => .nothing
  | .opDecode16 _ _ => .nothing
  | .opFeed _ => .feeds
  | .opRxByte _ => .receives
  | .opRxChunk _ => .receives
  | .opDecode _ _ => .nothing
  | .opIntValue _ => .nothing
  | .opFloatValue _ => .nothing
  | .opTextValue _ => .nothing
  | .opAllocate _ => .allocates
  | .opResolve _ _ => .resolves
  | .opDiscardAll => .discards
  | .opIsExpired _ => .nothing
  | .opSendWrite _ _ => .writes
  | .opSendRead _ _ _ => .reads
  | .opSetMotors _ _ => .writes
  | .opSetMotor _ _ => .writes
  | .opMoveForward _ => .writes
  | .opMoveBackward _ => .writes
  | .opTurnLeft _ => .writes
  | .opTurnRight _ => .writes
  | .opStop => .writes
  | .opSetLED _ _ _ _ => .writes
  | .opPlayTone _ _ => .writes
  | .opReadUltrasonic _ _ => .reads
  | .opReadLightness _ _ => .reads
  | .opReadLineFollower _ _ => .reads
  | .opOnConnect => .nothing
  | .opOnDisconnect => .discards
  | .opReset => .resets

end Sys2Proof.Machine
end

