-- ==== Sys2Proof/Certificates/Slice0/Obligations.lean ====
section
/-! DEFINITION. The statements for the provers. Each is about the machine, for every state that meets its
hypotheses; the rule of spec/ it formalises is named in its docstring. A next state is written out in full
wherever the rules give it in full, so that it is the statement of the instruction's frame too. -/

open Sys2Proof Sys2Proof.Machine

/-! ## Encoding and the step -/

/-- R81, R84, R100: no operand of an encoding is dropped. -/
def Obligations.DecodeEncodeRoundTrip : Prop :=
  ∀ i : Instr, i.wellFormed = true → decode (encode i) = .ok i

/-- The decoder's answers are well-formed; an RX chunk is limited to what a call's 16-bit count holds
(assumption log 2). -/
def Obligations.DecodedInstructionsAreWellFormed : Prop :=
  ∀ (t : Transaction) (i : Instr), t.bytes.length < 65536 → decode t = .ok i → i.wellFormed = true

/-- Nine words decode and a tenth is refused. The frames are written out from the encodings of R81 (with the vectors
of R103), R84, R88 and R89, and cross on the channels of assumption log 1. That a call is its selector of R100 and
operands, and that a step of `feed` is its code of R21 and the byte on a channel of its own, is the model's choice
(assumption logs 1, 2 and 3). -/
def Obligations.WrittenOutWordsDecode : Prop :=
  decode ⟨.command, [0xFF, 0x55, 0x07, 0x01, 0x02, 0x05, 0xF6, 0xFF, 0x0A, 0x00]⟩
      = .ok (.cmdMotorPair 0xFFF6 0x000A) ∧
  decode ⟨.command, [0xFF, 0x55, 0x06, 0x01, 0x02, 0x0A, 0x09, 0x0A, 0x00]⟩ = .ok (.cmdMotor 0x09 0x000A) ∧
  decode ⟨.command, [0xFF, 0x55, 0x03, 0x7F, 0x02, 0x33]⟩ = .ok (.frameC 0x7F 0x02 0x33 []) ∧
  decode ⟨.inbound, [0xFF, 0x55, 0x02, 0x02, 0x35, 0xC2, 0x94, 0x42, 0x0D, 0x0A]⟩
      = .ok (.replyFloat 0x02 0x4294C235) ∧
  decode ⟨.inbound, [0xFF, 0x55, 0x09, 0x01, 0xC8, 0x0D, 0x0A]⟩ = .ok (.replyByte 0x09 0xC8) ∧
  decode ⟨.inbound, [0xFF, 0x55, 0x05, 0x04, 0x03, 0x61, 0x62, 0x63, 0x0D, 0x0A]⟩
      = .ok (.replyText 0x05 [0x61, 0x62, 0x63]) ∧
  decode ⟨.inbound, [0xFF, 0x55, 0x0D, 0x0A]⟩ = .ok .ack ∧
  decode ⟨.rxStep, [0x04, 0x61]⟩ = .ok (.rxStepAwaitPayload 0x61) ∧
  decode ⟨.call, [0x16]⟩ = .ok .opStop ∧
  decode ⟨.call, [0x1F]⟩ = .error (.unknownSelector 0x1F)

/-- A step executes the instruction of the oldest pending transaction, with that transaction taken off the
queue. The queue is the model's own (assumption log 1). -/
def Obligations.StepRunsTheDecodedInstruction : Prop :=
  ∀ (s : State) (t : Transaction) (rest : List Transaction) (i : Instr),
    s.pending = t :: rest → decode t = .ok i → step s = exec i { s with pending := rest }

/-- "The ENGINE itself has no autonomous step: it changes state only in response to a CMD, RX or LINK
transaction" (R7): with nothing pending a step leaves the state as it is (assumption log 4). -/
def Obligations.StepWithoutTransactionHoldsState : Prop :=
  ∀ s : State, s.pending = [] → step s = .next s

/-! ## Frame Codec -/

/-- R121: the layout, the length byte, and the refusal above 252 payload bytes. -/
def Obligations.EncodeBuildsTheFrame : Prop :=
  ∀ (index mode deviceId : Byte) (payload : List Byte) (s : State),
    (payload.length ≤ 252 →
      let frame := [0xFF, 0x55, BitVec.ofNat 8 (payload.length + 3), index, mode, deviceId] ++ payload
        ++ (if Config.txSuffix then [0x0D, 0x0A] else [])
      exec (.opEncode index mode deviceId payload) s = .next { s with ret := .bytes frame }) ∧
    (252 < payload.length → exec (.opEncode index mode deviceId payload) s = .refused .payloadTooLong)

/-- R122: the length of the result, and the operands read back from it, so that the codec is injective. -/
def Obligations.EncodeIsInvertible : Prop :=
  ∀ (index mode deviceId : Byte) (payload r : List Byte) (s t : State),
    exec (.opEncode index mode deviceId payload) s = .next t → t.ret = .bytes r → Config.txSuffix = false →
    r.length = 6 + payload.length ∧ r[0]? = some 0xFF ∧ r[1]? = some 0x55 ∧ r[3]? = some index ∧
    r[4]? = some mode ∧ r[5]? = some deviceId ∧ r.drop 6 = payload ∧
    ∃ n : Byte, r[2]? = some n ∧ n.toNat = payload.length + 3

/-- R123: the two bytes of the 16-bit two's-complement pattern, low byte first, and the refusal outside
-32768..65535. -/
def Obligations.Split16TakesTheTwoBytes : Prop :=
  ∀ (v : Int) (s : State),
    (-32768 ≤ v → v ≤ 65535 →
      exec (.opSplit16 v) s
        = .next { s with ret := .pair ((BitVec.ofInt 16 v).extractLsb' 0 8) ((BitVec.ofInt 16 v).extractLsb' 8 8) }) ∧
    (v < -32768 ∨ 65535 < v → exec (.opSplit16 v) s = .refused .operandOutOfDomain)

/-- R124: the sign-extended composition of the two bytes. -/
def Obligations.Decode16SignExtends : Prop :=
  ∀ (lo hi : Byte) (s : State),
    let u : Int := hi.toNat * 256 + lo.toNat
    exec (.opDecode16 lo hi) s = .next { s with ret := .int (if u < 32768 then u else u - 65536) }

/-- R125: the round trip of `split16` and `decode16`, both ways, and for unsigned values. -/
def Obligations.Split16RoundTrips : Prop :=
  (∀ v : Int, -32768 ≤ v → v ≤ 32767 → ∃ lo hi, split16 v = some (lo, hi) ∧ decode16 lo hi = v) ∧
  (∀ lo hi : Byte, split16 (decode16 lo hi) = some (lo, hi)) ∧
  (∀ v : Int, 32768 ≤ v → v ≤ 65535 → ∃ lo hi, split16 v = some (lo, hi) ∧ decode16 lo hi = v - 65536)

/-! ## Payload Decoder -/

/-- R182 to R187: little-endian, unsigned, 32-bit patterns unchanged, double like float, text byte for byte. -/
def Obligations.DecodeByTypeTag : Prop :=
  ∀ (p0 p1 p2 p3 : Byte) (p : List Byte) (s : State),
    exec (.opDecode Config.tagByte [p0]) s = .next { s with ret := .value (.int (BitVec.ofNat 32 p0.toNat)) } ∧
    exec (.opDecode Config.tagShort [p0, p1]) s
      = .next { s with ret := .value (.int (BitVec.ofNat 32 (p0.toNat + 256 * p1.toNat))) } ∧
    exec (.opDecode Config.tagLong [p0, p1, p2, p3]) s = .next { s with ret := .value (.int (BitVec.ofNat 32
      (p0.toNat + 256 * p1.toNat + 65536 * p2.toNat + 16777216 * p3.toNat))) } ∧
    exec (.opDecode Config.tagFloat [p0, p1, p2, p3]) s = .next { s with ret := .value (.float (BitVec.ofNat 32
      (p0.toNat + 256 * p1.toNat + 65536 * p2.toNat + 16777216 * p3.toNat))) } ∧
    exec (.opDecode Config.tagDouble [p0, p1, p2, p3]) s = .next { s with ret := .value (.float (BitVec.ofNat 32
      (p0.toNat + 256 * p1.toNat + 65536 * p2.toNat + 16777216 * p3.toNat))) } ∧
    (p.length ≤ 255 → exec (.opDecode Config.tagText p) s = .next { s with ret := .value (.text p) })

/-- R180, R188: `decode` answers exactly on the known tags with a payload of the demanded length, and is refused
elsewhere. -/
def Obligations.DecodeDomain : Prop :=
  ∀ (tag : Byte) (p : List Byte) (s : State),
    (payloadFits tag p.length → ∃ v, exec (.opDecode tag p) s = .next { s with ret := .value v }) ∧
    (¬ payloadFits tag p.length → exec (.opDecode tag p) s = .refused .decodeOutOfDomain)

/-- R190 to R192: the accessor of the stored variant, and the default through the other two. -/
def Obligations.AccessorsReadOrDefault : Prop :=
  ∀ (n w : Word) (b : List Byte) (s : State),
    exec (.opIntValue (.int n)) s = .next { s with ret := .int n.toNat } ∧
    exec (.opIntValue (.float w)) s = .next { s with ret := .int 0 } ∧
    exec (.opIntValue (.text b)) s = .next { s with ret := .int 0 } ∧
    exec (.opFloatValue (.float w)) s = .next { s with ret := .pattern w } ∧
    exec (.opFloatValue (.int n)) s = .next { s with ret := .pattern 0x00000000 } ∧
    exec (.opFloatValue (.text b)) s = .next { s with ret := .pattern 0x00000000 } ∧
    exec (.opTextValue (.text b)) s = .next { s with ret := .bytes b } ∧
    exec (.opTextValue (.int n)) s = .next { s with ret := .bytes [] } ∧
    exec (.opTextValue (.float w)) s = .next { s with ret := .bytes [] }

/-! ## Correlation Table -/

/-- R211: the entry stored at CURSOR (its time is whatever NOW supplied), the index returned, CURSOR advanced with
the wrap after 254, every other key and register unchanged. -/
def Obligations.AllocateStoresAndAdvances : Prop :=
  ∀ (h : CallbackHandle) (s : State),
    ∃ (now : Timestamp) (tbl : Table),
      exec (.opAllocate h) s = .next { s with
        tbl := tbl
        cursor := if s.cursor.toNat + 1 > 254 then 2 else s.cursor + 1
        freeCount := s.freeCount + 1
        ret := .index s.cursor } ∧
      tblLookup tbl s.cursor = some ⟨s.cursor, now, h⟩ ∧
      ∀ k, k ≠ s.cursor → tblLookup tbl k = tblLookup s.tbl k

/-- R217: after `n` calls from CURSOR = 2, CURSOR is 2 + (n mod 253), and call n + 1 returns that. -/
def Obligations.AllocationSequence : Prop :=
  ∀ (h : Nat → CallbackHandle) (g : CallbackHandle) (n : Nat) (s : State), s.cursor = 2 →
    (allocateMany h n s).cursor.toNat = 2 + n % 253 ∧
    ∃ t k, exec (.opAllocate g) (allocateMany h n s) = .next t ∧ t.ret = .index k ∧ k.toNat = 2 + n % 253 ∧
      t.cursor.toNat = 2 + (n + 1) % 253

/-- R216, R283: an `allocate` on a live key replaces its entry: the number of entries stays, the old entry is gone
and nothing is emitted. -/
def Obligations.ClobberIsSilent : Prop :=
  ∀ (h : CallbackHandle) (s t : State) (e : Entry), s.tbl.wf → tblLookup s.tbl s.cursor = some e →
    exec (.opAllocate h) s = .next t →
    t.tbl.length = s.tbl.length ∧ t.cb = s.cb ∧
    ∃ e', tblLookup t.tbl s.cursor = some e' ∧ e'.onResolve = h

/-- R327: an entry survives 252 further allocations and is replaced by the 253rd. -/
def Obligations.ClobberComesAtThe253rdAllocation : Prop :=
  ∀ (h : CallbackHandle) (g : Nat → CallbackHandle) (m : Nat) (s : State),
    2 ≤ s.cursor.toNat → s.cursor.toNat ≤ 254 →
    (m ≤ 252 → tblLookup (allocateMany g m (allocate h s)).tbl s.cursor
      = tblLookup (allocate h s).tbl s.cursor) ∧
    (tblLookup (allocateMany g 253 (allocate h s)).tbl s.cursor).map (·.onResolve) = some (g 252)

/-- R212: a hit emits the stored handle with the value once, removes the entry and returns true; a miss changes
nothing and returns false. -/
def Obligations.ResolveFiresOnceOrMisses : Prop :=
  ∀ (k : Byte) (v : SensorValue) (s : State), s.tbl.wf →
    (tblLookup s.tbl k = none → exec (.opResolve k v) s = .next { s with ret := .bool false }) ∧
    (∀ e, tblLookup s.tbl k = some e →
      ∃ tbl, exec (.opResolve k v) s
          = .next { s with tbl := tbl, cb := s.cb ++ [(e.onResolve, v)], ret := .bool true } ∧
        tblLookup tbl k = none ∧ ∀ j, j ≠ k → tblLookup tbl j = tblLookup s.tbl j)

/-- R51, R33 (I-2): indices 0, 1 and 255 always miss. -/
def Obligations.ReservedIndicesNeverResolve : Prop :=
  ∀ (k : Byte) (v : SensorValue) (s : State), Invariant s → k = 0 ∨ k = 1 ∨ k = 255 →
    exec (.opResolve k v) s = .next { s with ret := .bool false }

/-- R214, R215, R258, R259: `discardAll` and the disconnect event empty the table and change nothing else; the
connect event changes nothing; `isExpired` answers false for every entry. -/
def Obligations.DiscardLinkAndExpiry : Prop :=
  ∀ (e : Entry) (s : State),
    exec .opDiscardAll s = .next { s with tbl := [], ret := .none } ∧
    exec .opOnDisconnect s = .next { s with tbl := [], ret := .none } ∧
    exec .opOnConnect s = .next { s with ret := .none } ∧
    exec (.opIsExpired e) s = .next { s with ret := .bool false }

/-- R320: RXS, CURSOR and TBL at their reset values, nothing emitted; the five working registers take some values,
of which nothing is said. -/
def Obligations.ResetRestoresTheInitialState : Prop :=
  ∀ s : State, ∃ (rxIndex rxType rxRemaining : Byte) (rxLenPending : Bool) (pbuf : List Byte),
    exec .opReset s = .next { s with
      rxs := .awaitPrefixA, cursor := 2, tbl := []
      rxIndex := rxIndex, rxType := rxType, rxRemaining := rxRemaining
      rxLenPending := rxLenPending, pbuf := pbuf
      freeCount := s.freeCount + 1, ret := .none }

/-! ## Receive State Machine -/

/-- R141. -/
def Obligations.FeedInAwaitPrefixA : Prop :=
  ∀ (b : Byte) (s : State), s.rxs = .awaitPrefixA →
    let t := { s with rxs := if b = 0xFF then .awaitPrefixB else .awaitPrefixA, ret := .frame none }
    exec (.rxStepAwaitPrefixA b) s = .next t ∧ exec (.opFeed b) s = .next t

/-- R142. -/
def Obligations.FeedInAwaitPrefixB : Prop :=
  ∀ (b : Byte) (s : State), s.rxs = .awaitPrefixB →
    let t := { s with rxs := if b = 0x55 then .awaitIndex else .awaitPrefixA, ret := .frame none }
    exec (.rxStepAwaitPrefixB b) s = .next t ∧ exec (.opFeed b) s = .next t

/-- R143. -/
def Obligations.FeedInAwaitIndex : Prop :=
  ∀ (b : Byte) (s : State), s.rxs = .awaitIndex →
    let t := { s with rxIndex := b, rxs := .awaitDataType, ret := .frame none }
    exec (.rxStepAwaitIndex b) s = .next t ∧ exec (.opFeed b) s = .next t

/-- R144, with the tags as parameters and the lengths of R87. -/
def Obligations.FeedInAwaitDataType : Prop :=
  ∀ (b : Byte) (s : State), s.rxs = .awaitDataType →
    let accepted (n : Byte) (lenPending : Bool) : State :=
      { s with rxType := b, pbuf := [], rxRemaining := n, rxLenPending := lenPending, rxs := .awaitPayload,
               ret := .frame none }
    let t := if b = Config.tagText then accepted 1 true
      else if b = Config.tagByte then accepted 1 false
      else if b = Config.tagFloat then accepted 4 false
      else if b = Config.tagShort then accepted 2 false
      else if b = Config.tagDouble then accepted 4 false
      else if b = Config.tagLong then accepted 4 false
      else { s with rxs := .awaitPrefixA, ret := .frame none }
    exec (.rxStepAwaitDataType b) s = .next t ∧ exec (.opFeed b) s = .next t

/-- R145. The count is at least 1 whenever it is decremented, so the hypothesis excludes no reachable state
(R33, I-4). -/
def Obligations.FeedInAwaitPayload : Prop :=
  ∀ (b : Byte) (s : State), s.rxs = .awaitPayload → (s.rxLenPending = false → 1 ≤ s.rxRemaining.toNat) →
    ∃ t, exec (.rxStepAwaitPayload b) s = .next t ∧ exec (.opFeed b) s = .next t ∧
      (s.rxLenPending = true → t = { s with
        rxRemaining := b, rxLenPending := false, ret := .frame none
        rxs := if b = 0 then .awaitSuffixA else .awaitPayload }) ∧
      (s.rxLenPending = false → ∃ n : Byte, n.toNat + 1 = s.rxRemaining.toNat ∧ t = { s with
        pbuf := s.pbuf ++ [b], rxRemaining := n, ret := .frame none
        rxs := if n = 0 then .awaitSuffixA else .awaitPayload })

/-- R146. -/
def Obligations.FeedInAwaitSuffixA : Prop :=
  ∀ (b : Byte) (s : State), s.rxs = .awaitSuffixA →
    let t := { s with rxs := if b = 0x0D then .awaitSuffixB else .awaitPrefixA, ret := .frame none }
    exec (.rxStepAwaitSuffixA b) s = .next t ∧ exec (.opFeed b) s = .next t

/-- R147. -/
def Obligations.FeedInAwaitSuffixB : Prop :=
  ∀ (b : Byte) (s : State), s.rxs = .awaitSuffixB →
    let t := { s with
      rxs := .awaitPrefixA
      ret := .frame (if b = 0x0A then some ⟨s.rxIndex, s.rxType, s.pbuf⟩ else none) }
    exec (.rxStepAwaitSuffixB b) s = .next t ∧ exec (.opFeed b) s = .next t

/-- R140 selects the step by RXS; a step that RXS does not select is refused. The refusal is the model's choice
(assumption log 19). -/
def Obligations.UnselectedStepsAreRefused : Prop :=
  ∀ (b : Byte) (s : State),
    (s.rxs ≠ .awaitPrefixA → exec (.rxStepAwaitPrefixA b) s = .refused .stepNotSelected) ∧
    (s.rxs ≠ .awaitPrefixB → exec (.rxStepAwaitPrefixB b) s = .refused .stepNotSelected) ∧
    (s.rxs ≠ .awaitIndex → exec (.rxStepAwaitIndex b) s = .refused .stepNotSelected) ∧
    (s.rxs ≠ .awaitDataType → exec (.rxStepAwaitDataType b) s = .refused .stepNotSelected) ∧
    (s.rxs ≠ .awaitPayload → exec (.rxStepAwaitPayload b) s = .refused .stepNotSelected) ∧
    (s.rxs ≠ .awaitSuffixA → exec (.rxStepAwaitSuffixA b) s = .refused .stepNotSelected) ∧
    (s.rxs ≠ .awaitSuffixB → exec (.rxStepAwaitSuffixB b) s = .refused .stepNotSelected)

/-- R148, R281, R285: the recovery action, in each of the four states that have a failing byte, sets RXS and nothing
else; the byte is consumed and no frame is handed back. -/
def Obligations.ResyncSetsRxsOnly : Prop :=
  ∀ (b : Byte) (s : State),
    (s.rxs = .awaitPrefixB ∧ b ≠ 0x55) ∨ (s.rxs = .awaitDataType ∧ knownTag b = false) ∨
      (s.rxs = .awaitSuffixA ∧ b ≠ 0x0D) ∨ (s.rxs = .awaitSuffixB ∧ b ≠ 0x0A) →
    exec (.opFeed b) s = .next { s with rxs := .awaitPrefixA, ret := .frame none }

/-- R31: a frame that the parser emits has a known tag and a payload of the length the tag demands. -/
def Obligations.EmittedFramesFitTheirTag : Prop :=
  ∀ (b : Byte) (s t : State) (f : CompletedFrame), Invariant s → exec (.opFeed b) s = .next t → t.ret = .frame (some f) →
    payloadFits f.type f.payload.length

/-- R150, R213: `rxByte` is `feed`, then, on a completed frame, exactly one emission and the removal on a hit, and
nothing on a miss. -/
def Obligations.RxByteFeedsThenDispatches : Prop :=
  ∀ (b : Byte) (s : State), Invariant s →
    match feed b s with
    | (t, none) => exec (.opRxByte b) s = .next { t with ret := .none }
    | (t, some f) =>
      match tblLookup s.tbl f.index with
      | none => exec (.opRxByte b) s = .next { t with ret := .none }
      | some e => ∃ v tbl, decodePayload f.type f.payload = some v ∧
          exec (.opRxByte b) s
            = .next { t with tbl := tbl, cb := s.cb ++ [(e.onResolve, v)], ret := .none } ∧
          tblLookup tbl f.index = none ∧ ∀ j, j ≠ f.index → tblLookup tbl j = tblLookup s.tbl j

/-- R151, R55: an empty chunk does nothing, a chunk of one byte is `rxByte`, and a byte sequence may be cut into
chunks anywhere, so that a chunk is `rxByte` of each of its bytes in order. -/
def Obligations.ChunkBoundariesAreInvisible : Prop :=
  ∀ (c : Byte) (a b : List Byte) (s : State),
    exec (.opRxChunk []) s = .next { s with ret := .none } ∧
    exec (.opRxChunk [c]) s = exec (.opRxByte c) s ∧
    (Invariant s →
      ∃ t u, exec (.opRxChunk a) s = .next t ∧ exec (.opRxChunk b) t = .next u ∧
        exec (.opRxChunk (a ++ b)) s = .next u)

/-- R84, R88, R89, R154 (d), R335: in every receive state a reply frame or ack is its bytes in wire order, taken as one
chunk, so that met in the middle of a frame its bytes are the continuation of that frame. That a frame row is executed
by delivering its bytes is the model's reading (assumption log 18). -/
def Obligations.InboundFramesAreTheirBytes : Prop :=
  ∀ (k p0 p1 p2 p3 : Byte) (text : List Byte) (s : State),
    let isChunk (i : Instr) (bytes : List Byte) : Prop :=
      (encode i).bytes = bytes ∧ exec i s = exec (.opRxChunk bytes) s
    isChunk (.replyByte k p0) [0xFF, 0x55, k, Config.tagByte, p0, 0x0D, 0x0A] ∧
    isChunk (.replyShort k (p1 ++ p0)) [0xFF, 0x55, k, Config.tagShort, p0, p1, 0x0D, 0x0A] ∧
    isChunk (.replyLong k (p3 ++ p2 ++ p1 ++ p0)) [0xFF, 0x55, k, Config.tagLong, p0, p1, p2, p3, 0x0D, 0x0A] ∧
    isChunk (.replyFloat k (p3 ++ p2 ++ p1 ++ p0)) [0xFF, 0x55, k, Config.tagFloat, p0, p1, p2, p3, 0x0D, 0x0A] ∧
    isChunk (.replyDouble k (p3 ++ p2 ++ p1 ++ p0)) [0xFF, 0x55, k, Config.tagDouble, p0, p1, p2, p3, 0x0D, 0x0A] ∧
    (text.length ≤ 255 → isChunk (.replyText k text)
      ([0xFF, 0x55, k, Config.tagText, BitVec.ofNat 8 text.length] ++ text ++ [0x0D, 0x0A])) ∧
    isChunk .ack [0xFF, 0x55, 0x0D, 0x0A]

/-- R65, R280: no inbound byte sequence stops the machine, and the invariant survives it. -/
def Obligations.InboundBytesNeverStopTheMachine : Prop :=
  ∀ (bytes : List Byte) (s : State), Invariant s → inboundNext bytes s → ∃ t, step s = .next t ∧ Invariant t

/-- R155, R150, R182 to R186: a numeric reply frame met in AwaitPrefixA is parsed, and its value is emitted with the
handle pending at its index, whose entry is removed; where none is pending nothing is emitted. -/
def Obligations.NumericRepliesAreDelivered : Prop :=
  ∀ (k p : Byte) (h : Half) (w : Word) (s : State), s.rxs = .awaitPrefixA →
    let parsed (tag : Byte) (payload : List Byte) : State :=
      { s with rxIndex := k, rxType := tag, rxRemaining := 0, rxLenPending := false, pbuf := payload,
               ret := .none }
    let delivered (tag : Byte) (payload : List Byte) (v : SensorValue) : State :=
      match tblLookup s.tbl k with
      | none => parsed tag payload
      | some e => { parsed tag payload with tbl := tblRemove s.tbl k, cb := s.cb ++ [(e.onResolve, v)] }
    exec (.replyByte k p) s = .next (delivered Config.tagByte [p] (.int (BitVec.ofNat 32 p.toNat))) ∧
    exec (.replyShort k h) s
      = .next (delivered Config.tagShort (halfBytes h) (.int (BitVec.ofNat 32 h.toNat))) ∧
    exec (.replyLong k w) s = .next (delivered Config.tagLong (wordBytes w) (.int w)) ∧
    exec (.replyFloat k w) s = .next (delivered Config.tagFloat (wordBytes w) (.float w)) ∧
    exec (.replyDouble k w) s = .next (delivered Config.tagDouble (wordBytes w) (.float w))

/-- R155, R150, R88, R187: a text reply frame of any declared length 0..255 met in AwaitPrefixA. -/
def Obligations.TextRepliesAreDelivered : Prop :=
  ∀ (k : Byte) (text : List Byte) (s : State), s.rxs = .awaitPrefixA → text.length ≤ 255 →
    let parsed : State :=
      { s with rxIndex := k, rxType := Config.tagText, rxRemaining := 0, rxLenPending := false, pbuf := text,
               ret := .none }
    exec (.replyText k text) s = .next
      (match tblLookup s.tbl k with
       | none => parsed
       | some e => { parsed with tbl := tblRemove s.tbl k, cb := s.cb ++ [(e.onResolve, .text text)] })

/-- R152: the write ack met in AwaitPrefixA leaves the machine there, with 0x0D behind in RX_INDEX and nothing
else changed. -/
def Obligations.WriteAckIsDiscarded : Prop :=
  ∀ s : State, s.rxs = .awaitPrefixA → exec .ack s = .next { s with rxIndex := 0x0D, ret := .none }

/-- R154 (a), R148: the second FF is consumed by the failed prefix check, so the frame that starts with it is lost:
nothing is emitted and no register keeps a trace of it, whatever is pending. -/
def Obligations.FailingByteIsConsumed : Prop :=
  ∀ (b : Byte) (s : State), s.rxs = .awaitPrefixA →
    exec (.opRxChunk [0xFF, 0xFF, 0x55, 0x02, 0x01, b, 0x0D, 0x0A]) s = .next { s with ret := .none }

/-- R153: inside a payload every byte is data: up to the last expected byte, any bytes are stored in order and the
machine stays in AwaitPayload. -/
def Obligations.PayloadIsTransparent : Prop :=
  ∀ (bs : List Byte) (s : State), s.rxs = .awaitPayload → s.rxLenPending = false →
    bs.length < s.rxRemaining.toNat →
    let t := feedMany bs s
    framesOf bs s = [] ∧ t.rxs = .awaitPayload ∧ t.pbuf = s.pbuf ++ bs ∧
    t.rxRemaining.toNat + bs.length = s.rxRemaining.toNat ∧ t.rxType = s.rxType ∧ t.rxIndex = s.rxIndex

/-- R154 (d): from any state the machine is in AwaitPrefixA again after at most 261 further bytes, whatever they
are. -/
def Obligations.RecoveryWithin261Bytes : Prop :=
  ∀ (bs : List Byte) (s : State), bs.length = 261 →
    ∃ n, n ≤ 261 ∧ (feedMany (bs.take n) s).rxs = .awaitPrefixA

/-! ## Command Facade and command frames -/

/-- R240: one TX transaction carrying the write frame with index 1, and no other effect. -/
def Obligations.SendWriteEmitsOneFrame : Prop :=
  ∀ (deviceId : Byte) (payload : List Byte) (s : State),
    (payload.length ≤ 252 →
      exec (.opSendWrite deviceId payload) s
        = .next { s with tx := s.tx ++ [commandFrame 1 Config.modeWrite deviceId payload], ret := .none }) ∧
    (252 < payload.length → exec (.opSendWrite deviceId payload) s = .refused .payloadTooLong)

/-- R241: `allocate`, then one TX transaction carrying the read frame with the allocated index. -/
def Obligations.SendReadAllocatesThenEmits : Prop :=
  ∀ (deviceId : Byte) (payload : List Byte) (h : CallbackHandle) (s : State),
    (payload.length ≤ 252 →
      ∃ t, exec (.opAllocate h) s = .next t ∧
        exec (.opSendRead deviceId payload h) s
          = .next { t with tx := s.tx ++ [commandFrame s.cursor Config.modeRead deviceId payload] } ∧
        t.ret = .index s.cursor) ∧
    (252 < payload.length → exec (.opSendRead deviceId payload h) s = .refused .payloadTooLong)

/-- R243, R244: the speeds in two's complement, low byte first, left first. -/
def Obligations.MotorCommandsEmitTheirFrame : Prop :=
  ∀ (left right : Int) (port : Byte) (s : State), -32768 ≤ left → left ≤ 32767 → -32768 ≤ right → right ≤ 32767 →
    exec (.opSetMotors left right) s = .next { s with ret := .none, tx := s.tx ++
      [commandFrame 1 Config.modeWrite 0x05
        (halfBytes (BitVec.ofInt 16 left) ++ halfBytes (BitVec.ofInt 16 right))] } ∧
    exec (.opSetMotor port left) s = .next { s with ret := .none, tx := s.tx ++
      [commandFrame 1 Config.modeWrite 0x0A (port :: halfBytes (BitVec.ofInt 16 left))] }

/-- R102, R245 to R249: the frame of the motor pair that each helper expands to. -/
def Obligations.DirectionalHelpersDriveTheMotorPair : Prop :=
  ∀ (v : Int) (s : State), -32767 ≤ v → v ≤ 32767 →
    let driven (left right : Int) : State := { s with ret := .none, tx := s.tx ++
      [commandFrame 1 Config.modeWrite 0x05
        (halfBytes (BitVec.ofInt 16 left) ++ halfBytes (BitVec.ofInt 16 right))] }
    exec (.opMoveForward v) s = .next (driven (-v) v) ∧
    exec (.opMoveBackward v) s = .next (driven v (-v)) ∧
    exec (.opTurnLeft v) s
      = .next (driven (Config.turnLeftSign * v) (Config.turnLeftSign * v)) ∧
    exec (.opTurnRight v) s
      = .next (driven (-Config.turnLeftSign * v) (-Config.turnLeftSign * v)) ∧
    exec .opStop s = .next (driven 0 0)

/-- R250, R251. -/
def Obligations.LedAndToneEmitTheirFrame : Prop :=
  ∀ (position red green blue : Byte) (pitch duration : Int) (s : State),
    exec (.opSetLED position red green blue) s = .next { s with ret := .none, tx := s.tx ++
      [commandFrame 1 Config.modeWrite Config.devLed [Config.ledSubcmd, position, red, green, blue]] } ∧
    (0 ≤ pitch → pitch ≤ 65535 → 0 ≤ duration → duration ≤ 65535 →
      exec (.opPlayTone pitch duration) s = .next { s with ret := .none, tx := s.tx ++
        [commandFrame 1 Config.modeWrite Config.devBuzzer
          (halfBytes (BitVec.ofInt 16 pitch) ++ halfBytes (BitVec.ofInt 16 duration))] })

/-- R252 to R254: each sensor read is the `sendRead` of its device with the port as payload, and completes. -/
def Obligations.SensorReadsAllocateThenEmit : Prop :=
  ∀ (port : Byte) (h : CallbackHandle) (s : State),
    ∃ t, exec (.opAllocate h) s = .next t ∧
      (let sent (deviceId : Byte) : State :=
        { t with tx := s.tx ++ [commandFrame s.cursor Config.modeRead deviceId [port]] }
      exec (.opReadUltrasonic port h) s = .next (sent Config.devUltrasonic) ∧
      exec (.opReadLightness port h) s = .next (sent Config.devLight) ∧
      exec (.opReadLineFollower port h) s = .next (sent Config.devLine))

/-- R255, R243 to R248, R251: an operand outside its domain is refused, never truncated. -/
def Obligations.OutOfDomainOperandsAreRefused : Prop :=
  ∀ (v w : Int) (port : Byte) (s : State),
    (v < -32768 ∨ 32767 < v →
      exec (.opSetMotors v w) s = .refused .operandOutOfDomain ∧
      exec (.opSetMotors w v) s = .refused .operandOutOfDomain ∧
      exec (.opSetMotor port v) s = .refused .operandOutOfDomain) ∧
    (v < -32767 ∨ 32767 < v →
      exec (.opMoveForward v) s = .refused .operandOutOfDomain ∧
      exec (.opMoveBackward v) s = .refused .operandOutOfDomain ∧
      exec (.opTurnLeft v) s = .refused .operandOutOfDomain ∧
      exec (.opTurnRight v) s = .refused .operandOutOfDomain) ∧
    (v < 0 ∨ 65535 < v →
      exec (.opPlayTone v w) s = .refused .operandOutOfDomain ∧
      exec (.opPlayTone w v) s = .refused .operandOutOfDomain)

/-- R81, R91: a write frame, executed, puts exactly its own bytes on TX and changes nothing else. That a frame row
is executed by putting it on TX is the model's choice (assumption log 15). -/
def Obligations.WriteFramesLeaveAsEncoded : Prop :=
  ∀ (i : Instr) (s : State),
    ((∃ x m d p, i = .frameC x m d p ∧ p.length ≤ 252) ∨ (∃ d p, i = .frameCWrite d p ∧ p.length ≤ 252) ∨
      (∃ l r, i = .cmdMotorPair l r) ∨ (∃ p v, i = .cmdMotor p v) ∨ (∃ p r g b, i = .cmdLed p r g b) ∨
      (∃ p d, i = .cmdTone p d)) →
    exec i s = .next { s with tx := s.tx ++ [(encode i).bytes], ret := .none }

/-- R241, R85, R91, R126: a read frame whose index is the allocator's next one is the read command with that frame on
TX; with any other index it makes no table entry, and only the frame crosses TX (the model's choice, assumption
log 16). -/
def Obligations.ReadFramesAllocateTheirIndex : Prop :=
  ∀ (k d port : Byte) (p : List Byte) (h : CallbackHandle) (s : State), p.length ≤ 252 →
    (k = s.cursor → ∃ t, exec (.opAllocate h) s = .next t ∧
      (let sent (frame : List Byte) : State := { t with tx := s.tx ++ [frame] }
      exec (.frameCRead k d p h) s = .next (sent (commandFrame k Config.modeRead d p)) ∧
      exec (.cmdReadUltrasonic k port h) s
        = .next (sent (commandFrame k Config.modeRead Config.devUltrasonic [port])) ∧
      exec (.cmdReadLightness k port h) s
        = .next (sent (commandFrame k Config.modeRead Config.devLight [port])) ∧
      exec (.cmdReadLineFollower k port h) s
        = .next (sent (commandFrame k Config.modeRead Config.devLine [port])))) ∧
    (k ≠ s.cursor →
      let bare (frame : List Byte) : State := { s with tx := s.tx ++ [frame], ret := .none }
      exec (.frameCRead k d p h) s = .next (bare (commandFrame k Config.modeRead d p)) ∧
      exec (.cmdReadUltrasonic k port h) s
        = .next (bare (commandFrame k Config.modeRead Config.devUltrasonic [port])) ∧
      exec (.cmdReadLightness k port h) s
        = .next (bare (commandFrame k Config.modeRead Config.devLight [port])) ∧
      exec (.cmdReadLineFollower k port h) s
        = .next (bare (commandFrame k Config.modeRead Config.devLine [port])))

/-! ## The whole machine -/

/-- R33 at reset (R36, R320). PBUF is empty there by the model's choice (assumption log 5); R25 bounds it whatever it
holds. -/
def Obligations.InvariantHoldsAtReset : Prop := Invariant State.reset

/-- R33: every step keeps the invariant, from every state that has it. -/
def Obligations.EveryStepKeepsTheInvariant : Prop :=
  ∀ s t : State, Invariant s → step s = .next t → Invariant t

/-- R156, R242, R22 to R26: the receive registers change only by feeding bytes and by `reset`. -/
def Obligations.OnlyFeedingAndResetTouchTheParser : Prop :=
  ∀ (i : Instr) (s t : State), exec i s = .next t →
    effectOf i ≠ .feeds → effectOf i ≠ .receives → effectOf i ≠ .resets →
    receiveRegisters t = receiveRegisters s

/-- R27, R210: CURSOR changes only by allocating and by `reset`. -/
def Obligations.OnlyAllocationAndResetMoveTheCursor : Prop :=
  ∀ (i : Instr) (s t : State), exec i s = .next t →
    effectOf i ≠ .allocates → effectOf i ≠ .reads → effectOf i ≠ .resets → t.cursor = s.cursor

/-- R28, R218: a live key changes hands in four ways only: an instruction that neither allocates, resets, discards,
resolves nor receives leaves the table as it is, and one that resolves or receives only removes entries. -/
def Obligations.EntriesEndInNoOtherWay : Prop :=
  ∀ (i : Instr) (s t : State) (k : Byte), s.tbl.wf → exec i s = .next t →
    (effectOf i = .nothing ∨ effectOf i = .feeds ∨ effectOf i = .writes → t.tbl = s.tbl) ∧
    (effectOf i = .resolves ∨ effectOf i = .receives →
      tblLookup t.tbl k = none ∨ tblLookup t.tbl k = tblLookup s.tbl k) ∧
    (effectOf i = .allocates ∨ effectOf i = .reads → k ≠ s.cursor → tblLookup t.tbl k = tblLookup s.tbl k)

/-- R290: an emission and the removal of an entry come together, one for one; what neither resolves nor receives
emits nothing. -/
def Obligations.EmissionsMatchRemovals : Prop :=
  ∀ (i : Instr) (s t : State), exec i s = .next t →
    (effectOf i = .resolves ∨ effectOf i = .receives →
      t.cb.length + t.tbl.length = s.cb.length + s.tbl.length ∧ ∃ new, t.cb = s.cb ++ new) ∧
    (effectOf i ≠ .resolves → effectOf i ≠ .receives → t.cb = s.cb)

/-- R256, R6: a facade command emits exactly one frame on TX. So does a command-frame row, FRAME.C included, by the
model's choice (assumption logs 15 and 16). No other instruction emits a frame. -/
def Obligations.OneFramePerOutboundCommand : Prop :=
  ∀ (i : Instr) (s t : State), exec i s = .next t →
    (effectOf i = .writes ∨ effectOf i = .reads → ∃ frame, t.tx = s.tx ++ [frame]) ∧
    (effectOf i ≠ .writes → effectOf i ≠ .reads → t.tx = s.tx)

/-- R58, R120, R180, R258: the pure operations and the connect event change nothing but the value handed back. -/
def Obligations.PureOperationsChangeNoState : Prop :=
  ∀ (i : Instr) (s t : State), exec i s = .next t → effectOf i = .nothing → t = { s with ret := t.ret }

/-- R35 (b), R297: nothing reads the `issuedAt` of an entry in the table: every instruction, in two states equal up to
the times of their entries, has the same outcome up to the times of the entries, those of new entries included. -/
def Obligations.IssueTimesAreNeverRead : Prop :=
  ∀ (i : Instr) (s t : State), s.forgetTimes = t.forgetTimes → forgetTimes (exec i s) = forgetTimes (exec i t)
end

