-- ==== Sys2Proof/Laws/Codec.lean ====
section
/-! SUPPORT. The decoder's operand readers invert the encoder's operand writers, one lemma for each operand form. -/

namespace Sys2Proof

@[simp] theorem half_halfBytes (v : Half) : half (v.extractLsb' 0 8) (v.extractLsb' 8 8) = v := by
  apply BitVec.eq_of_getLsbD_eq
  intro i hi
  simp only [half, BitVec.getLsbD_append, BitVec.getLsbD_extractLsb']
  by_cases h : i < 8
  · simp [h]
  · have : i - 8 < 8 := by omega
    have e : 8 + (i - 8) = i := by omega
    simp [h, this, e]

@[simp] theorem word_wordBytes (v : Word) :
    word (v.extractLsb' 0 8) (v.extractLsb' 8 8) (v.extractLsb' 16 8) (v.extractLsb' 24 8) = v := by
  apply BitVec.eq_of_getLsbD_eq
  intro i hi
  simp only [word, BitVec.getLsbD_append, BitVec.getLsbD_extractLsb']
  by_cases h : i < 8
  · simp [h]
  · by_cases h2 : i < 16
    · have h3 : i - 8 < 8 := by omega
      have e : 8 + (i - 8) = i := by omega
      simp [h, h3, e]
    · by_cases h4 : i < 24
      · have h3 : ¬ i - 8 < 8 := by omega
        have h5 : i - 8 - 8 < 8 := by omega
        have e : 16 + (i - 8 - 8) = i := by omega
        simp [h, h3, h5, e]
      · have h3 : ¬ i - 8 < 8 := by omega
        have h5 : ¬ i - 8 - 8 < 8 := by omega
        have h6 : i - 8 - 8 - 8 < 8 := by omega
        have e : 24 + (i - 8 - 8 - 8) = i := by omega
        simp [h, h3, h5, h6, e]

/-- The value of a 16-bit quantity is little-endian (R53). -/
theorem half_toNat (b0 b1 : Byte) : (half b0 b1).toNat = b0.toNat + 256 * b1.toNat := by
  have h0 := b0.isLt
  simp only [half, BitVec.toNat_append]
  rw [← Nat.shiftLeft_add_eq_or_of_lt h0, Nat.shiftLeft_eq]
  omega

/-- The value of a 32-bit quantity is little-endian (R53). -/
theorem word_toNat (b0 b1 b2 b3 : Byte) : (word b0 b1 b2 b3).toNat
    = b0.toNat + 256 * b1.toNat + 65536 * b2.toNat + 16777216 * b3.toNat := by
  have h0 := b0.isLt
  have h1 := b1.isLt
  have h2 := b2.isLt
  simp only [word, BitVec.toNat_append]
  rw [← Nat.shiftLeft_add_eq_or_of_lt h2, ← Nat.shiftLeft_add_eq_or_of_lt h1, ← Nat.shiftLeft_add_eq_or_of_lt h0]
  simp only [Nat.shiftLeft_eq]
  omega

/-- Bytes composed and taken apart again are the same bytes. -/
@[simp] theorem halfBytes_half (p0 p1 : Byte) : halfBytes (half p0 p1) = [p0, p1] := by
  have h := half_toNat p0 p1
  have a := p0.isLt
  have b := p1.isLt
  simp only [halfBytes, List.cons.injEq, and_true]
  constructor <;> apply BitVec.eq_of_toNat_eq <;>
    simp only [BitVec.extractLsb'_toNat, h, Nat.shiftRight_eq_div_pow] <;> omega

@[simp] theorem wordBytes_word (p0 p1 p2 p3 : Byte) : wordBytes (word p0 p1 p2 p3) = [p0, p1, p2, p3] := by
  have h := word_toNat p0 p1 p2 p3
  have a := p0.isLt
  have b := p1.isLt
  have c := p2.isLt
  have d := p3.isLt
  simp only [wordBytes, List.cons.injEq, and_true]
  refine ⟨?_, ?_, ?_, ?_⟩ <;> apply BitVec.eq_of_toNat_eq <;>
    simp only [BitVec.extractLsb'_toNat, h, Nat.shiftRight_eq_div_pow] <;> omega

@[simp] theorem halfBytes_length (v : Half) : (halfBytes v).length = 2 := rfl
@[simp] theorem wordBytes_length (v : Word) : (wordBytes v).length = 4 := rfl

@[simp] theorem getByte_cons (b : Byte) (r : List Byte) : getByte (b :: r) = some (b, r) := rfl

@[simp] theorem getWord_wordBytes (v : Word) (r : List Byte) : getWord (wordBytes v ++ r) = some (v, r) := by
  simp [getWord, wordBytes]

@[simp] theorem getWord_wordBytes_nil (v : Word) : getWord (wordBytes v) = some (v, []) := by
  simp [getWord, wordBytes]

/-- An integer operand reads back as written (assumption log 2). -/
theorem getInt_putInt {v : Int} (h : intFits v = true) (r : List Byte) : getInt (putInt v ++ r) = some (v, r) := by
  simp only [intFits, decide_eq_true_eq] at h
  simp only [getInt, putInt, getWord_wordBytes, Option.map_some]
  rw [BitVec.toInt_ofInt, Int.bmod_eq_of_le (by omega) (by omega)]

/-- A handle operand reads back as written (assumption log 2). -/
theorem getHandle_putHandle {h : CallbackHandle} (hf : handleFits h = true) (r : List Byte) :
    getHandle (putHandle h ++ r) = some (h, r) := by
  simp only [handleFits, decide_eq_true_eq] at hf
  simp only [getHandle, putHandle, getWord_wordBytes, Option.map_some, BitVec.toNat_ofNat]
  rw [Nat.mod_eq_of_lt (by omega)]

@[simp] theorem getCounted_append (p r : List Byte) : getCounted p.length (p ++ r) = some (p, r) := by
  simp [getCounted]

/-- What `getCounted` takes has the length it was asked for. -/
theorem length_of_getCounted {n : Nat} {bytes p r : List Byte} (h : getCounted n bytes = some (p, r)) :
    p.length = n ∧ bytes = p ++ r := by
  simp only [getCounted] at h
  split at h
  · cases h
  · cases h
    exact ⟨by simp; omega, (List.take_append_drop n bytes).symm⟩

/-- A byte-sequence operand reads back as written (assumption log 2). -/
theorem getBytes_putBytes {p : List Byte} (h : bytesFit p = true) (r : List Byte) :
    getBytes (putBytes p ++ r) = some (p, r) := by
  simp only [bytesFit, decide_eq_true_eq] at h
  have : (BitVec.ofNat 16 p.length).toNat = p.length := by
    rw [BitVec.toNat_ofNat, Nat.mod_eq_of_lt (by omega)]
  simp [getBytes, putBytes, halfBytes, this]

/-- A SensorValue operand reads back as written (assumption log 2). -/
theorem getValue_putValue {v : SensorValue} (h : valueFits v = true) (r : List Byte) :
    getValue (putValue v ++ r) = some (v, r) := by
  cases v with
  | int n => simp [getValue, putValue]
  | float w => simp [getValue, putValue]
  | text s =>
    have h : s.length ≤ 255 := of_decide_eq_true h
    have : s.length % 256 = s.length := Nat.mod_eq_of_lt (by omega)
    simp [getValue, putValue, this]

/-- An entry operand reads back as written (assumption log 2). -/
theorem getEntry_putEntry {e : Entry} (h : entryFits e = true) (r : List Byte) :
    getEntry (putEntry e ++ r) = some (e, r) := by
  simp only [entryFits, Bool.and_eq_true, decide_eq_true_eq] at h
  have : e.issuedAt % 4294967296 = e.issuedAt := Nat.mod_eq_of_lt h.1
  simp [getEntry, putEntry, getHandle_putHandle h.2, this]

/-- The command-frame decoder at a frame built by the layout of R81. -/
theorem decodeCommand_commandFrame {p : List Byte} (hp : payloadFitsFrame p = true) (index mode deviceId : Byte)
    (r : List Byte) :
    decodeCommand (commandFrame index mode deviceId p ++ r) =
      (if index = Config.idxWrite ∧ mode = Config.modeWrite then .ok (decodeWriteFrame deviceId p, r)
       else if mode = Config.modeRead ∧ allocatable index = true then
         orBadOperands ((getHandle r).map fun x => (decodeReadFrame index deviceId p x.1, x.2))
       else .ok (.frameC index mode deviceId p, r)) := by
  have hp : p.length ≤ 252 := of_decide_eq_true hp
  have hl : (3 + p.length) % 256 = 3 + p.length := Nat.mod_eq_of_lt (by omega)
  simp only [commandFrame, decodeCommand, List.cons_append, List.nil_append, Config.txSuffix, takeTxSuffix,
    Bool.false_eq_true, if_false, List.append_nil, BitVec.toNat_ofNat, Nat.reducePow, hl, true_and,
    Nat.le_add_right, if_true, Nat.add_sub_cancel_left, getCounted_append]
  split
  · rfl
  · split
    · cases getHandle r <;> rfl
    · rfl

end Sys2Proof
end

