-- ==== Sys2Proof/Laws/State.lean ====
section
/-! SUPPORT. One lemma for each field under each named update of State, so that no proof unfolds a record update. -/

namespace Sys2Proof.Machine

section
variable (s : State) (v : RxState)
@[simp] theorem State.setRxs_rxs : (s.setRxs v).rxs = v := rfl
@[simp] theorem State.setRxs_rxIndex : (s.setRxs v).rxIndex = s.rxIndex := rfl
@[simp] theorem State.setRxs_rxType : (s.setRxs v).rxType = s.rxType := rfl
@[simp] theorem State.setRxs_rxRemaining : (s.setRxs v).rxRemaining = s.rxRemaining := rfl
@[simp] theorem State.setRxs_rxLenPending : (s.setRxs v).rxLenPending = s.rxLenPending := rfl
@[simp] theorem State.setRxs_pbuf : (s.setRxs v).pbuf = s.pbuf := rfl
@[simp] theorem State.setRxs_cursor : (s.setRxs v).cursor = s.cursor := rfl
@[simp] theorem State.setRxs_tbl : (s.setRxs v).tbl = s.tbl := rfl
@[simp] theorem State.setRxs_pending : (s.setRxs v).pending = s.pending := rfl
@[simp] theorem State.setRxs_freeCount : (s.setRxs v).freeCount = s.freeCount := rfl
@[simp] theorem State.setRxs_ret : (s.setRxs v).ret = s.ret := rfl
@[simp] theorem State.setRxs_tx : (s.setRxs v).tx = s.tx := rfl
@[simp] theorem State.setRxs_cb : (s.setRxs v).cb = s.cb := rfl
end

section
variable (s : State) (v : Byte)
@[simp] theorem State.setRxIndex_rxs : (s.setRxIndex v).rxs = s.rxs := rfl
@[simp] theorem State.setRxIndex_rxIndex : (s.setRxIndex v).rxIndex = v := rfl
@[simp] theorem State.setRxIndex_rxType : (s.setRxIndex v).rxType = s.rxType := rfl
@[simp] theorem State.setRxIndex_rxRemaining : (s.setRxIndex v).rxRemaining = s.rxRemaining := rfl
@[simp] theorem State.setRxIndex_rxLenPending : (s.setRxIndex v).rxLenPending = s.rxLenPending := rfl
@[simp] theorem State.setRxIndex_pbuf : (s.setRxIndex v).pbuf = s.pbuf := rfl
@[simp] theorem State.setRxIndex_cursor : (s.setRxIndex v).cursor = s.cursor := rfl
@[simp] theorem State.setRxIndex_tbl : (s.setRxIndex v).tbl = s.tbl := rfl
@[simp] theorem State.setRxIndex_pending : (s.setRxIndex v).pending = s.pending := rfl
@[simp] theorem State.setRxIndex_freeCount : (s.setRxIndex v).freeCount = s.freeCount := rfl
@[simp] theorem State.setRxIndex_ret : (s.setRxIndex v).ret = s.ret := rfl
@[simp] theorem State.setRxIndex_tx : (s.setRxIndex v).tx = s.tx := rfl
@[simp] theorem State.setRxIndex_cb : (s.setRxIndex v).cb = s.cb := rfl
end

section
variable (s : State) (v : Byte)
@[simp] theorem State.setRxType_rxs : (s.setRxType v).rxs = s.rxs := rfl
@[simp] theorem State.setRxType_rxIndex : (s.setRxType v).rxIndex = s.rxIndex := rfl
@[simp] theorem State.setRxType_rxType : (s.setRxType v).rxType = v := rfl
@[simp] theorem State.setRxType_rxRemaining : (s.setRxType v).rxRemaining = s.rxRemaining := rfl
@[simp] theorem State.setRxType_rxLenPending : (s.setRxType v).rxLenPending = s.rxLenPending := rfl
@[simp] theorem State.setRxType_pbuf : (s.setRxType v).pbuf = s.pbuf := rfl
@[simp] theorem State.setRxType_cursor : (s.setRxType v).cursor = s.cursor := rfl
@[simp] theorem State.setRxType_tbl : (s.setRxType v).tbl = s.tbl := rfl
@[simp] theorem State.setRxType_pending : (s.setRxType v).pending = s.pending := rfl
@[simp] theorem State.setRxType_freeCount : (s.setRxType v).freeCount = s.freeCount := rfl
@[simp] theorem State.setRxType_ret : (s.setRxType v).ret = s.ret := rfl
@[simp] theorem State.setRxType_tx : (s.setRxType v).tx = s.tx := rfl
@[simp] theorem State.setRxType_cb : (s.setRxType v).cb = s.cb := rfl
end

section
variable (s : State) (v : Byte)
@[simp] theorem State.setRxRemaining_rxs : (s.setRxRemaining v).rxs = s.rxs := rfl
@[simp] theorem State.setRxRemaining_rxIndex : (s.setRxRemaining v).rxIndex = s.rxIndex := rfl
@[simp] theorem State.setRxRemaining_rxType : (s.setRxRemaining v).rxType = s.rxType := rfl
@[simp] theorem State.setRxRemaining_rxRemaining : (s.setRxRemaining v).rxRemaining = v := rfl
@[simp] theorem State.setRxRemaining_rxLenPending : (s.setRxRemaining v).rxLenPending = s.rxLenPending := rfl
@[simp] theorem State.setRxRemaining_pbuf : (s.setRxRemaining v).pbuf = s.pbuf := rfl
@[simp] theorem State.setRxRemaining_cursor : (s.setRxRemaining v).cursor = s.cursor := rfl
@[simp] theorem State.setRxRemaining_tbl : (s.setRxRemaining v).tbl = s.tbl := rfl
@[simp] theorem State.setRxRemaining_pending : (s.setRxRemaining v).pending = s.pending := rfl
@[simp] theorem State.setRxRemaining_freeCount : (s.setRxRemaining v).freeCount = s.freeCount := rfl
@[simp] theorem State.setRxRemaining_ret : (s.setRxRemaining v).ret = s.ret := rfl
@[simp] theorem State.setRxRemaining_tx : (s.setRxRemaining v).tx = s.tx := rfl
@[simp] theorem State.setRxRemaining_cb : (s.setRxRemaining v).cb = s.cb := rfl
end

section
variable (s : State) (v : Bool)
@[simp] theorem State.setRxLenPending_rxs : (s.setRxLenPending v).rxs = s.rxs := rfl
@[simp] theorem State.setRxLenPending_rxIndex : (s.setRxLenPending v).rxIndex = s.rxIndex := rfl
@[simp] theorem State.setRxLenPending_rxType : (s.setRxLenPending v).rxType = s.rxType := rfl
@[simp] theorem State.setRxLenPending_rxRemaining : (s.setRxLenPending v).rxRemaining = s.rxRemaining := rfl
@[simp] theorem State.setRxLenPending_rxLenPending : (s.setRxLenPending v).rxLenPending = v := rfl
@[simp] theorem State.setRxLenPending_pbuf : (s.setRxLenPending v).pbuf = s.pbuf := rfl
@[simp] theorem State.setRxLenPending_cursor : (s.setRxLenPending v).cursor = s.cursor := rfl
@[simp] theorem State.setRxLenPending_tbl : (s.setRxLenPending v).tbl = s.tbl := rfl
@[simp] theorem State.setRxLenPending_pending : (s.setRxLenPending v).pending = s.pending := rfl
@[simp] theorem State.setRxLenPending_freeCount : (s.setRxLenPending v).freeCount = s.freeCount := rfl
@[simp] theorem State.setRxLenPending_ret : (s.setRxLenPending v).ret = s.ret := rfl
@[simp] theorem State.setRxLenPending_tx : (s.setRxLenPending v).tx = s.tx := rfl
@[simp] theorem State.setRxLenPending_cb : (s.setRxLenPending v).cb = s.cb := rfl
end

section
variable (s : State) (v : List Byte)
@[simp] theorem State.setPbuf_rxs : (s.setPbuf v).rxs = s.rxs := rfl
@[simp] theorem State.setPbuf_rxIndex : (s.setPbuf v).rxIndex = s.rxIndex := rfl
@[simp] theorem State.setPbuf_rxType : (s.setPbuf v).rxType = s.rxType := rfl
@[simp] theorem State.setPbuf_rxRemaining : (s.setPbuf v).rxRemaining = s.rxRemaining := rfl
@[simp] theorem State.setPbuf_rxLenPending : (s.setPbuf v).rxLenPending = s.rxLenPending := rfl
@[simp] theorem State.setPbuf_pbuf : (s.setPbuf v).pbuf = v := rfl
@[simp] theorem State.setPbuf_cursor : (s.setPbuf v).cursor = s.cursor := rfl
@[simp] theorem State.setPbuf_tbl : (s.setPbuf v).tbl = s.tbl := rfl
@[simp] theorem State.setPbuf_pending : (s.setPbuf v).pending = s.pending := rfl
@[simp] theorem State.setPbuf_freeCount : (s.setPbuf v).freeCount = s.freeCount := rfl
@[simp] theorem State.setPbuf_ret : (s.setPbuf v).ret = s.ret := rfl
@[simp] theorem State.setPbuf_tx : (s.setPbuf v).tx = s.tx := rfl
@[simp] theorem State.setPbuf_cb : (s.setPbuf v).cb = s.cb := rfl
end

section
variable (s : State) (v : Byte)
@[simp] theorem State.setCursor_rxs : (s.setCursor v).rxs = s.rxs := rfl
@[simp] theorem State.setCursor_rxIndex : (s.setCursor v).rxIndex = s.rxIndex := rfl
@[simp] theorem State.setCursor_rxType : (s.setCursor v).rxType = s.rxType := rfl
@[simp] theorem State.setCursor_rxRemaining : (s.setCursor v).rxRemaining = s.rxRemaining := rfl
@[simp] theorem State.setCursor_rxLenPending : (s.setCursor v).rxLenPending = s.rxLenPending := rfl
@[simp] theorem State.setCursor_pbuf : (s.setCursor v).pbuf = s.pbuf := rfl
@[simp] theorem State.setCursor_cursor : (s.setCursor v).cursor = v := rfl
@[simp] theorem State.setCursor_tbl : (s.setCursor v).tbl = s.tbl := rfl
@[simp] theorem State.setCursor_pending : (s.setCursor v).pending = s.pending := rfl
@[simp] theorem State.setCursor_freeCount : (s.setCursor v).freeCount = s.freeCount := rfl
@[simp] theorem State.setCursor_ret : (s.setCursor v).ret = s.ret := rfl
@[simp] theorem State.setCursor_tx : (s.setCursor v).tx = s.tx := rfl
@[simp] theorem State.setCursor_cb : (s.setCursor v).cb = s.cb := rfl
end

section
variable (s : State) (v : Table)
@[simp] theorem State.setTbl_rxs : (s.setTbl v).rxs = s.rxs := rfl
@[simp] theorem State.setTbl_rxIndex : (s.setTbl v).rxIndex = s.rxIndex := rfl
@[simp] theorem State.setTbl_rxType : (s.setTbl v).rxType = s.rxType := rfl
@[simp] theorem State.setTbl_rxRemaining : (s.setTbl v).rxRemaining = s.rxRemaining := rfl
@[simp] theorem State.setTbl_rxLenPending : (s.setTbl v).rxLenPending = s.rxLenPending := rfl
@[simp] theorem State.setTbl_pbuf : (s.setTbl v).pbuf = s.pbuf := rfl
@[simp] theorem State.setTbl_cursor : (s.setTbl v).cursor = s.cursor := rfl
@[simp] theorem State.setTbl_tbl : (s.setTbl v).tbl = v := rfl
@[simp] theorem State.setTbl_pending : (s.setTbl v).pending = s.pending := rfl
@[simp] theorem State.setTbl_freeCount : (s.setTbl v).freeCount = s.freeCount := rfl
@[simp] theorem State.setTbl_ret : (s.setTbl v).ret = s.ret := rfl
@[simp] theorem State.setTbl_tx : (s.setTbl v).tx = s.tx := rfl
@[simp] theorem State.setTbl_cb : (s.setTbl v).cb = s.cb := rfl
end

section
variable (s : State) (v : List Transaction)
@[simp] theorem State.setPending_rxs : (s.setPending v).rxs = s.rxs := rfl
@[simp] theorem State.setPending_rxIndex : (s.setPending v).rxIndex = s.rxIndex := rfl
@[simp] theorem State.setPending_rxType : (s.setPending v).rxType = s.rxType := rfl
@[simp] theorem State.setPending_rxRemaining : (s.setPending v).rxRemaining = s.rxRemaining := rfl
@[simp] theorem State.setPending_rxLenPending : (s.setPending v).rxLenPending = s.rxLenPending := rfl
@[simp] theorem State.setPending_pbuf : (s.setPending v).pbuf = s.pbuf := rfl
@[simp] theorem State.setPending_cursor : (s.setPending v).cursor = s.cursor := rfl
@[simp] theorem State.setPending_tbl : (s.setPending v).tbl = s.tbl := rfl
@[simp] theorem State.setPending_pending : (s.setPending v).pending = v := rfl
@[simp] theorem State.setPending_freeCount : (s.setPending v).freeCount = s.freeCount := rfl
@[simp] theorem State.setPending_ret : (s.setPending v).ret = s.ret := rfl
@[simp] theorem State.setPending_tx : (s.setPending v).tx = s.tx := rfl
@[simp] theorem State.setPending_cb : (s.setPending v).cb = s.cb := rfl
end

section
variable (s : State)
@[simp] theorem State.countFree_rxs : (s.countFree).rxs = s.rxs := rfl
@[simp] theorem State.countFree_rxIndex : (s.countFree).rxIndex = s.rxIndex := rfl
@[simp] theorem State.countFree_rxType : (s.countFree).rxType = s.rxType := rfl
@[simp] theorem State.countFree_rxRemaining : (s.countFree).rxRemaining = s.rxRemaining := rfl
@[simp] theorem State.countFree_rxLenPending : (s.countFree).rxLenPending = s.rxLenPending := rfl
@[simp] theorem State.countFree_pbuf : (s.countFree).pbuf = s.pbuf := rfl
@[simp] theorem State.countFree_cursor : (s.countFree).cursor = s.cursor := rfl
@[simp] theorem State.countFree_tbl : (s.countFree).tbl = s.tbl := rfl
@[simp] theorem State.countFree_pending : (s.countFree).pending = s.pending := rfl
@[simp] theorem State.countFree_freeCount : (s.countFree).freeCount = s.freeCount + 1 := rfl
@[simp] theorem State.countFree_ret : (s.countFree).ret = s.ret := rfl
@[simp] theorem State.countFree_tx : (s.countFree).tx = s.tx := rfl
@[simp] theorem State.countFree_cb : (s.countFree).cb = s.cb := rfl
end

section
variable (s : State) (v : CmdResult)
@[simp] theorem State.setRet_rxs : (s.setRet v).rxs = s.rxs := rfl
@[simp] theorem State.setRet_rxIndex : (s.setRet v).rxIndex = s.rxIndex := rfl
@[simp] theorem State.setRet_rxType : (s.setRet v).rxType = s.rxType := rfl
@[simp] theorem State.setRet_rxRemaining : (s.setRet v).rxRemaining = s.rxRemaining := rfl
@[simp] theorem State.setRet_rxLenPending : (s.setRet v).rxLenPending = s.rxLenPending := rfl
@[simp] theorem State.setRet_pbuf : (s.setRet v).pbuf = s.pbuf := rfl
@[simp] theorem State.setRet_cursor : (s.setRet v).cursor = s.cursor := rfl
@[simp] theorem State.setRet_tbl : (s.setRet v).tbl = s.tbl := rfl
@[simp] theorem State.setRet_pending : (s.setRet v).pending = s.pending := rfl
@[simp] theorem State.setRet_freeCount : (s.setRet v).freeCount = s.freeCount := rfl
@[simp] theorem State.setRet_ret : (s.setRet v).ret = v := rfl
@[simp] theorem State.setRet_tx : (s.setRet v).tx = s.tx := rfl
@[simp] theorem State.setRet_cb : (s.setRet v).cb = s.cb := rfl
end

section
variable (s : State) (f : List Byte)
@[simp] theorem State.emitTx_rxs : (s.emitTx f).rxs = s.rxs := rfl
@[simp] theorem State.emitTx_rxIndex : (s.emitTx f).rxIndex = s.rxIndex := rfl
@[simp] theorem State.emitTx_rxType : (s.emitTx f).rxType = s.rxType := rfl
@[simp] theorem State.emitTx_rxRemaining : (s.emitTx f).rxRemaining = s.rxRemaining := rfl
@[simp] theorem State.emitTx_rxLenPending : (s.emitTx f).rxLenPending = s.rxLenPending := rfl
@[simp] theorem State.emitTx_pbuf : (s.emitTx f).pbuf = s.pbuf := rfl
@[simp] theorem State.emitTx_cursor : (s.emitTx f).cursor = s.cursor := rfl
@[simp] theorem State.emitTx_tbl : (s.emitTx f).tbl = s.tbl := rfl
@[simp] theorem State.emitTx_pending : (s.emitTx f).pending = s.pending := rfl
@[simp] theorem State.emitTx_freeCount : (s.emitTx f).freeCount = s.freeCount := rfl
@[simp] theorem State.emitTx_ret : (s.emitTx f).ret = s.ret := rfl
@[simp] theorem State.emitTx_tx : (s.emitTx f).tx = s.tx ++ [f] := rfl
@[simp] theorem State.emitTx_cb : (s.emitTx f).cb = s.cb := rfl
end

section
variable (s : State) (h : CallbackHandle) (v : SensorValue)
@[simp] theorem State.emitCb_rxs : (s.emitCb h v).rxs = s.rxs := rfl
@[simp] theorem State.emitCb_rxIndex : (s.emitCb h v).rxIndex = s.rxIndex := rfl
@[simp] theorem State.emitCb_rxType : (s.emitCb h v).rxType = s.rxType := rfl
@[simp] theorem State.emitCb_rxRemaining : (s.emitCb h v).rxRemaining = s.rxRemaining := rfl
@[simp] theorem State.emitCb_rxLenPending : (s.emitCb h v).rxLenPending = s.rxLenPending := rfl
@[simp] theorem State.emitCb_pbuf : (s.emitCb h v).pbuf = s.pbuf := rfl
@[simp] theorem State.emitCb_cursor : (s.emitCb h v).cursor = s.cursor := rfl
@[simp] theorem State.emitCb_tbl : (s.emitCb h v).tbl = s.tbl := rfl
@[simp] theorem State.emitCb_pending : (s.emitCb h v).pending = s.pending := rfl
@[simp] theorem State.emitCb_freeCount : (s.emitCb h v).freeCount = s.freeCount := rfl
@[simp] theorem State.emitCb_ret : (s.emitCb h v).ret = s.ret := rfl
@[simp] theorem State.emitCb_tx : (s.emitCb h v).tx = s.tx := rfl
@[simp] theorem State.emitCb_cb : (s.emitCb h v).cb = s.cb ++ [(h, v)] := rfl
end

section
variable (s : State)
@[simp] theorem State.clearPbuf_rxs : (s.clearPbuf).rxs = s.rxs := rfl
@[simp] theorem State.clearPbuf_rxIndex : (s.clearPbuf).rxIndex = s.rxIndex := rfl
@[simp] theorem State.clearPbuf_rxType : (s.clearPbuf).rxType = s.rxType := rfl
@[simp] theorem State.clearPbuf_rxRemaining : (s.clearPbuf).rxRemaining = s.rxRemaining := rfl
@[simp] theorem State.clearPbuf_rxLenPending : (s.clearPbuf).rxLenPending = s.rxLenPending := rfl
@[simp] theorem State.clearPbuf_pbuf : (s.clearPbuf).pbuf = [] := rfl
@[simp] theorem State.clearPbuf_cursor : (s.clearPbuf).cursor = s.cursor := rfl
@[simp] theorem State.clearPbuf_tbl : (s.clearPbuf).tbl = s.tbl := rfl
@[simp] theorem State.clearPbuf_pending : (s.clearPbuf).pending = s.pending := rfl
@[simp] theorem State.clearPbuf_freeCount : (s.clearPbuf).freeCount = s.freeCount := rfl
@[simp] theorem State.clearPbuf_ret : (s.clearPbuf).ret = s.ret := rfl
@[simp] theorem State.clearPbuf_tx : (s.clearPbuf).tx = s.tx := rfl
@[simp] theorem State.clearPbuf_cb : (s.clearPbuf).cb = s.cb := rfl
end

section
variable (s : State) (b : Byte)
@[simp] theorem State.appendPbuf_rxs : (s.appendPbuf b).rxs = s.rxs := rfl
@[simp] theorem State.appendPbuf_rxIndex : (s.appendPbuf b).rxIndex = s.rxIndex := rfl
@[simp] theorem State.appendPbuf_rxType : (s.appendPbuf b).rxType = s.rxType := rfl
@[simp] theorem State.appendPbuf_rxRemaining : (s.appendPbuf b).rxRemaining = s.rxRemaining := rfl
@[simp] theorem State.appendPbuf_rxLenPending : (s.appendPbuf b).rxLenPending = s.rxLenPending := rfl
@[simp] theorem State.appendPbuf_pbuf : (s.appendPbuf b).pbuf = s.pbuf ++ [b] := rfl
@[simp] theorem State.appendPbuf_cursor : (s.appendPbuf b).cursor = s.cursor := rfl
@[simp] theorem State.appendPbuf_tbl : (s.appendPbuf b).tbl = s.tbl := rfl
@[simp] theorem State.appendPbuf_pending : (s.appendPbuf b).pending = s.pending := rfl
@[simp] theorem State.appendPbuf_freeCount : (s.appendPbuf b).freeCount = s.freeCount := rfl
@[simp] theorem State.appendPbuf_ret : (s.appendPbuf b).ret = s.ret := rfl
@[simp] theorem State.appendPbuf_tx : (s.appendPbuf b).tx = s.tx := rfl
@[simp] theorem State.appendPbuf_cb : (s.appendPbuf b).cb = s.cb := rfl
end

section
variable (s : State)
@[simp] theorem raiseResync_rxs : (raiseResync s).rxs = .awaitPrefixA := rfl
@[simp] theorem raiseResync_rxIndex : (raiseResync s).rxIndex = s.rxIndex := rfl
@[simp] theorem raiseResync_rxType : (raiseResync s).rxType = s.rxType := rfl
@[simp] theorem raiseResync_rxRemaining : (raiseResync s).rxRemaining = s.rxRemaining := rfl
@[simp] theorem raiseResync_rxLenPending : (raiseResync s).rxLenPending = s.rxLenPending := rfl
@[simp] theorem raiseResync_pbuf : (raiseResync s).pbuf = s.pbuf := rfl
@[simp] theorem raiseResync_cursor : (raiseResync s).cursor = s.cursor := rfl
@[simp] theorem raiseResync_tbl : (raiseResync s).tbl = s.tbl := rfl
@[simp] theorem raiseResync_pending : (raiseResync s).pending = s.pending := rfl
@[simp] theorem raiseResync_freeCount : (raiseResync s).freeCount = s.freeCount := rfl
@[simp] theorem raiseResync_ret : (raiseResync s).ret = s.ret := rfl
@[simp] theorem raiseResync_tx : (raiseResync s).tx = s.tx := rfl
@[simp] theorem raiseResync_cb : (raiseResync s).cb = s.cb := rfl
end

end Sys2Proof.Machine
end

