-- ==== Sys2Proof/Laws/Table.lean ====
section
/-! SUPPORT. The laws of the correlation table: look up after store and after remove, the canonical form, and what
the entries of a changed table are. -/

namespace Sys2Proof.Machine

/-- A table in which a lookup misses lists no entry under that key. -/
theorem tblLookup_eq_none {t : Table} {k : Byte} : tblLookup t k = none ↔ ∀ p ∈ t, p.1 ≠ k := by
  induction t with
  | nil => simp [tblLookup]
  | cons p t ih =>
    obtain ⟨k', e⟩ := p
    by_cases h : k' = k <;> simp [tblLookup, h, ih]

/-- What a lookup finds is listed. -/
theorem mem_of_tblLookup {t : Table} {k : Byte} {e : Entry} (h : tblLookup t k = some e) : (k, e) ∈ t := by
  induction t with
  | nil => simp [tblLookup] at h
  | cons p t ih =>
    obtain ⟨k', e'⟩ := p
    by_cases hk : k' = k
    · simp [tblLookup, hk] at h; simp [hk, h]
    · simp [tblLookup, hk] at h; simp [ih h]

@[simp] theorem tblLookup_store_same (t : Table) (k : Byte) (e : Entry) :
    tblLookup (tblStore t k e) k = some e := by
  induction t with
  | nil => simp [tblStore, tblLookup]
  | cons p t ih =>
    obtain ⟨k', e'⟩ := p
    simp only [tblStore]
    split
    · simp [tblLookup]
    · split <;> simp_all [tblLookup]

theorem tblLookup_store_other {t : Table} {j k : Byte} {e : Entry} (h : j ≠ k) :
    tblLookup (tblStore t k e) j = tblLookup t j := by
  induction t with
  | nil => simp [tblStore, tblLookup, h.symm]
  | cons p t ih =>
    obtain ⟨k', e'⟩ := p
    simp only [tblStore]
    split
    · subst k'; simp [tblLookup, h.symm]
    · split
      · simp [tblLookup, h.symm]
      · simp [tblLookup, ih]

theorem tblLookup_remove_other {t : Table} {j k : Byte} (h : j ≠ k) :
    tblLookup (tblRemove t k) j = tblLookup t j := by
  induction t with
  | nil => rfl
  | cons p t ih =>
    obtain ⟨k', e'⟩ := p
    by_cases hk : k' = k
    · subst k'; simp [tblRemove, tblLookup, h.symm]
    · simp [tblRemove, tblLookup, hk, ih]

theorem mem_of_mem_store {t : Table} {k : Byte} {e : Entry} {p : Byte × Entry} (h : p ∈ tblStore t k e) :
    p = (k, e) ∨ p ∈ t := by
  induction t with
  | nil => simpa [tblStore] using h
  | cons q t ih =>
    obtain ⟨k', e'⟩ := q
    simp only [tblStore] at h
    split at h
    · rcases List.mem_cons.1 h with h | h <;> simp [h]
    · split at h
      · rcases List.mem_cons.1 h with h | h <;> simp [h]
      · rcases List.mem_cons.1 h with h | h
        · simp [h]
        · rcases ih h with h | h <;> simp [h]

theorem mem_of_mem_remove {t : Table} {k : Byte} {p : Byte × Entry} (h : p ∈ tblRemove t k) : p ∈ t := by
  induction t with
  | nil => simp [tblRemove] at h
  | cons q t ih =>
    obtain ⟨k', e'⟩ := q
    simp only [tblRemove] at h
    split at h
    · exact List.mem_cons_of_mem _ h
    · rcases List.mem_cons.1 h with h | h
      · simp [h]
      · exact List.mem_cons_of_mem _ (ih h)

/-- A removed key holds no entry, in a table in canonical form. -/
theorem tblLookup_remove_same {t : Table} {k : Byte} (hw : Table.wf t) : tblLookup (tblRemove t k) k = none := by
  induction t with
  | nil => rfl
  | cons p t ih =>
    obtain ⟨k', e'⟩ := p
    obtain ⟨hlt, hw'⟩ := List.pairwise_cons.1 hw
    by_cases hk : k' = k
    · subst k'
      rw [tblRemove, if_pos rfl, tblLookup_eq_none]
      intro p hp he
      have := hlt p hp
      simp [he] at this
    · simp [tblRemove, tblLookup, hk, ih hw']

/-- Storing keeps the canonical form. -/
theorem wf_tblStore {t : Table} {k : Byte} {e : Entry} (hw : Table.wf t) : Table.wf (tblStore t k e) := by
  induction t with
  | nil => simp [tblStore]
  | cons p t ih =>
    obtain ⟨k', e'⟩ := p
    obtain ⟨hlt, hw'⟩ := List.pairwise_cons.1 hw
    simp only [tblStore]
    split
    · subst k'; exact List.pairwise_cons.2 ⟨hlt, hw'⟩
    · split
      next hk =>
        refine List.pairwise_cons.2 ⟨?_, hw⟩
        intro q hq
        rcases List.mem_cons.1 hq with h | h
        · simpa [h] using hk
        · exact hk.trans (hlt q h)
      next hne hk =>
        refine List.pairwise_cons.2 ⟨?_, ih hw'⟩
        intro q hq
        rcases mem_of_mem_store hq with h | h
        · subst h
          have : k'.toNat ≠ k.toNat := fun hh => hne (BitVec.eq_of_toNat_eq hh)
          simp only
          omega
        · exact hlt q h

/-- Removing keeps the canonical form. -/
theorem wf_tblRemove {t : Table} {k : Byte} (hw : Table.wf t) : Table.wf (tblRemove t k) := by
  induction t with
  | nil => simp [tblRemove]
  | cons p t ih =>
    obtain ⟨k', e'⟩ := p
    obtain ⟨hlt, hw'⟩ := List.pairwise_cons.1 hw
    simp only [tblRemove]
    split
    · exact hw'
    · exact List.pairwise_cons.2 ⟨fun q hq => hlt q (mem_of_mem_remove hq), ih hw'⟩

/-- Removing a live key removes exactly one entry. -/
theorem length_tblRemove {t : Table} {k : Byte} {e : Entry} (h : tblLookup t k = some e) :
    (tblRemove t k).length + 1 = t.length := by
  induction t with
  | nil => simp [tblLookup] at h
  | cons p t ih =>
    obtain ⟨k', e'⟩ := p
    by_cases hk : k' = k
    · simp [tblRemove, hk]
    · simp only [tblLookup, hk, if_false] at h
      simp [tblRemove, hk, ih h]

/-- Storing on a live key keeps the number of entries (R216: the old entry is replaced). -/
theorem length_tblStore_of_live {t : Table} {k : Byte} {e e' : Entry} (hw : Table.wf t)
    (h : tblLookup t k = some e') : (tblStore t k e).length = t.length := by
  induction t with
  | nil => simp [tblLookup] at h
  | cons p t ih =>
    obtain ⟨k', e''⟩ := p
    obtain ⟨hlt, hw'⟩ := List.pairwise_cons.1 hw
    by_cases hk : k' = k
    · simp [tblStore, hk]
    · simp only [tblLookup, hk, if_false] at h
      have := hlt _ (mem_of_tblLookup h)
      have hn : ¬ k.toNat < k'.toNat := by simp only at this; omega
      simp [tblStore, hk, hn, ih hw' h]

/-- Storing on a free key adds one entry. -/
theorem length_tblStore_of_free {t : Table} {k : Byte} {e : Entry} (h : tblLookup t k = none) :
    (tblStore t k e).length = t.length + 1 := by
  induction t with
  | nil => simp [tblStore]
  | cons p t ih =>
    obtain ⟨k', e'⟩ := p
    by_cases hk : k' = k
    · simp [tblLookup, hk] at h
    · simp only [tblLookup, hk, if_false] at h
      simp only [tblStore, hk, if_false]
      split <;> simp [ih h]

/-- Two tables in canonical form that answer every lookup alike are equal. -/
theorem table_ext {t u : Table} (ht : Table.wf t) (hu : Table.wf u)
    (h : ∀ k, tblLookup t k = tblLookup u k) : t = u := by
  induction t generalizing u with
  | nil =>
    cases u with
    | nil => rfl
    | cons q u =>
      have := h q.1
      simp [tblLookup] at this
  | cons p t ih =>
    obtain ⟨k, e⟩ := p
    obtain ⟨hlt, ht'⟩ := List.pairwise_cons.1 ht
    cases u with
    | nil => have := h k; simp [tblLookup] at this
    | cons q u =>
      obtain ⟨j, f⟩ := q
      obtain ⟨hlu, hu'⟩ := List.pairwise_cons.1 hu
      have hk : j = k := by
        by_contra hne
        have h1 := h k
        have h2 := h j
        have hne' : k ≠ j := fun hh => hne hh.symm
        simp only [tblLookup, if_true, hne, hne', if_false] at h1 h2
        have m1 := hlu _ (mem_of_tblLookup h1.symm)
        have m2 := hlt _ (mem_of_tblLookup h2)
        simp only at m1 m2
        omega
      subst hk
      have he : e = f := by have := h j; simpa [tblLookup] using this
      subst he
      congr 1
      refine ih ht' hu' fun i => ?_
      by_cases hi : j = i
      · subst hi
        rw [tblLookup_eq_none.2, tblLookup_eq_none.2]
        · intro q hq hqe; have := hlu q hq; simp [hqe] at this
        · intro q hq hqe; have := hlt q hq; simp [hqe] at this
      · have := h i
        simpa [tblLookup, hi] using this

end Sys2Proof.Machine
end

