-- ==== Sys2Proof/Laws/Ops.lean ====
section
/-! SUPPORT. What the shared operations do, said once: `allocate`, `resolve`, `discardAll`, `resetEngine`, the cursor
and the recording of a return value. -/

namespace Sys2Proof.Machine

/-! `memRead` -/

/-- PBUF read whole is PBUF. -/
@[simp] theorem memRead_whole (s : State) : memRead s 0 s.pbuf.length = s.pbuf := by simp [memRead]

/-! The cursor (R211, R194 e). -/

theorem nextCursor_toNat {i : Byte} (h2 : 2 ≤ i.toNat) (h : i.toNat ≤ 254) :
    (nextCursor i).toNat = if i.toNat = 254 then 2 else i.toNat + 1 := by
  have e : Config.idxMax.toNat = 254 := rfl
  by_cases hi : i.toNat = 254
  · rw [nextCursor, e, if_pos (by omega), if_pos hi]; rfl
  · rw [nextCursor, e, if_neg (by omega), if_neg hi, BitVec.toNat_add]
    have : (1 : Byte).toNat = 1 := rfl
    omega

/-- Whatever the cursor was, its successor is in range. -/
theorem nextCursor_range (i : Byte) (h2 : 2 ≤ i.toNat) (h : i.toNat ≤ 254) :
    2 ≤ (nextCursor i).toNat ∧ (nextCursor i).toNat ≤ 254 := by
  rw [nextCursor_toNat h2 h]
  split <;> omega

/-! `allocate` (R211). -/

section
variable (h : CallbackHandle) (s : State)
@[simp] theorem allocate_rxs : (allocate h s).rxs = s.rxs := rfl
@[simp] theorem allocate_rxIndex : (allocate h s).rxIndex = s.rxIndex := rfl
@[simp] theorem allocate_rxType : (allocate h s).rxType = s.rxType := rfl
@[simp] theorem allocate_rxRemaining : (allocate h s).rxRemaining = s.rxRemaining := rfl
@[simp] theorem allocate_rxLenPending : (allocate h s).rxLenPending = s.rxLenPending := rfl
@[simp] theorem allocate_pbuf : (allocate h s).pbuf = s.pbuf := rfl
@[simp] theorem allocate_cursor : (allocate h s).cursor = nextCursor s.cursor := rfl
@[simp] theorem allocate_tbl : (allocate h s).tbl
    = tblStore s.tbl s.cursor ⟨s.cursor, Config.nowSample s.freeCount, h⟩ := rfl
@[simp] theorem allocate_pending : (allocate h s).pending = s.pending := rfl
@[simp] theorem allocate_freeCount : (allocate h s).freeCount = s.freeCount + 1 := rfl
@[simp] theorem allocate_ret : (allocate h s).ret = s.ret := rfl
@[simp] theorem allocate_tx : (allocate h s).tx = s.tx := rfl
@[simp] theorem allocate_cb : (allocate h s).cb = s.cb := rfl
end

/-! `resolve` (R212). -/

/-- A miss changes nothing; a hit emits the entry's handle once and removes the entry. -/
theorem resolve_cases (k : Byte) (v : SensorValue) (s : State) :
    (tblLookup s.tbl k = none ∧ resolve k v s = (s, false)) ∨
    (∃ e, tblLookup s.tbl k = some e ∧
      resolve k v s = ({ s with tbl := tblRemove s.tbl k, cb := s.cb ++ [(e.onResolve, v)] }, true)) := by
  cases h : tblLookup s.tbl k with
  | none => exact .inl ⟨rfl, by simp [resolve, h]⟩
  | some e => exact .inr ⟨e, rfl, by simp [resolve, h, State.emitCb, State.setTbl]⟩

/-! `discardAll` (R214) and `reset` (R320), each as one record update. -/

theorem discardAll_eq (s : State) : discardAll s = { s with tbl := [] } := rfl

theorem resetEngine_eq (s : State) : resetEngine s = { s with
    rxs := .awaitPrefixA, cursor := Config.idxMin, tbl := []
    rxIndex := Config.resetRxIndex s.freeCount, rxType := Config.resetRxType s.freeCount
    rxRemaining := Config.resetRxRemaining s.freeCount, rxLenPending := Config.resetRxLenPending s.freeCount
    pbuf := (Config.resetPbuf s.freeCount).take Config.textMax
    freeCount := s.freeCount + 1 } := rfl

/-! Recording the return value. -/

/-- `returning` answers next exactly where its outcome does, with the value recorded. -/
theorem returning_eq_next {r : CmdResult} {o : Result} {t : State} :
    returning r o = .next t ↔ ∃ u, o = .next u ∧ t = u.setRet r := by
  cases o <;> simp [returning, eq_comm]

/-- The table operations keep the canonical form of the table. -/
theorem allocate_keeps_wf {h : CallbackHandle} {s : State} (hw : s.tbl.wf) : (allocate h s).tbl.wf :=
  wf_tblStore hw

theorem resolve_keeps_wf {k : Byte} {v : SensorValue} {s : State} (hw : s.tbl.wf) : (resolve k v s).1.tbl.wf := by
  rcases resolve_cases k v s with ⟨-, h⟩ | ⟨e, -, h⟩ <;> rw [h]
  · exact hw
  · exact wf_tblRemove hw

theorem discardAll_keeps_wf {s : State} : (discardAll s).tbl.wf := by simp [discardAll]

theorem reset_wf : State.reset.tbl.wf := List.Pairwise.nil

end Sys2Proof.Machine
end

