-- ==== Sys2Proof/Laws/Facade.lean ====
section
/-! SUPPORT. What the codec and the facade's primitives do, said once. -/

namespace Sys2Proof.Machine

/-- Inside its domain the codec builds the layout of R81 (R121). -/
theorem encodeFrame_eq {p : List Byte} (h : p.length ≤ 252) (index mode deviceId : Byte) :
    encodeFrame index mode deviceId p = some (commandFrame index mode deviceId p) := by
  have hm : Config.payloadMax = 252 := rfl
  have hs : Config.txSuffix = false := rfl
  rw [encodeFrame, if_neg (by omega), commandFrame, hs, Nat.add_comm 3]
  simp

/-- Above 252 payload bytes it has no result (R121, D13). -/
theorem encodeFrame_none {p : List Byte} (h : 252 < p.length) (index mode deviceId : Byte) :
    encodeFrame index mode deviceId p = none := by
  rw [encodeFrame, if_pos (show p.length > Config.payloadMax from h)]

/-- `sendWrite` (R240). -/
theorem sendWrite_eq {p : List Byte} (h : p.length ≤ 252) (deviceId : Byte) (s : State) :
    sendWrite deviceId p s
      = .next { s with tx := s.tx ++ [commandFrame 1 Config.modeWrite deviceId p], ret := .none } := by
  rw [sendWrite, encodeFrame_eq h]; rfl

theorem sendWrite_refused {p : List Byte} (h : 252 < p.length) (deviceId : Byte) (s : State) :
    sendWrite deviceId p s = .refused .payloadTooLong := by
  rw [sendWrite, encodeFrame_none h]

/-- `sendWrite` changes TX and the value handed back only. -/
theorem sendWrite_next {p : List Byte} {deviceId : Byte} {s t : State} (h : sendWrite deviceId p s = .next t) :
    ∃ f, t = { s with tx := s.tx ++ [f], ret := .none } := by
  simp only [sendWrite] at h
  split at h
  next f _ => cases h; exact ⟨f, rfl⟩
  next => cases h

/-- `sendRead` (R241). -/
theorem sendRead_eq {p : List Byte} (h : p.length ≤ 252) (deviceId : Byte) (cb : CallbackHandle) (s : State) :
    sendRead deviceId p cb s
      = .next (((allocate cb s).emitTx (commandFrame s.cursor Config.modeRead deviceId p)).setRet (.index s.cursor)) := by
  rw [sendRead, encodeFrame_eq h]

theorem sendRead_refused {p : List Byte} (h : 252 < p.length) (deviceId : Byte) (cb : CallbackHandle) (s : State) :
    sendRead deviceId p cb s = .refused .payloadTooLong := by
  rw [sendRead, encodeFrame_none h]

/-- `sendRead` is `allocate` and one frame on TX. -/
theorem sendRead_next {p : List Byte} {deviceId : Byte} {cb : CallbackHandle} {s t : State}
    (h : sendRead deviceId p cb s = .next t) :
    ∃ f, t = ((allocate cb s).emitTx f).setRet (.index s.cursor) := by
  simp only [sendRead] at h
  split at h
  next f _ => cases h; exact ⟨f, rfl⟩
  next => cases h

/-- A frame of `encode` on TX (R81, R126). -/
theorem sendFrame_eq {p : List Byte} (h : p.length ≤ 252) (index mode deviceId : Byte) (s : State) :
    sendFrame index mode deviceId p s
      = .next { s with tx := s.tx ++ [commandFrame index mode deviceId p], ret := .none } := by
  rw [sendFrame, encodeFrame_eq h]; rfl

theorem sendFrame_next {index mode deviceId : Byte} {p : List Byte} {s t : State}
    (h : sendFrame index mode deviceId p s = .next t) : ∃ f, t = { s with tx := s.tx ++ [f], ret := .none } := by
  simp only [sendFrame] at h
  split at h
  next f _ => cases h; exact ⟨f, rfl⟩
  next => cases h

/-- A read frame is `sendRead` where its index is the CURSOR, and a bare frame elsewhere. -/
theorem sendReadFrame_next {k : Byte} {p : List Byte} {deviceId : Byte} {cb : CallbackHandle} {s t : State}
    (h : sendReadFrame k deviceId p cb s = .next t) :
    (k = s.cursor ∧ ∃ f, t = ((allocate cb s).emitTx f).setRet (.index s.cursor)) ∨
    (k ≠ s.cursor ∧ ∃ f, t = { s with tx := s.tx ++ [f], ret := .none }) := by
  simp only [sendReadFrame] at h
  split at h
  next hk => exact .inl ⟨hk, sendRead_next h⟩
  next hk => exact .inr ⟨hk, sendFrame_next h⟩

theorem setMotors_next {l r : Int} {s t : State} (h : setMotors l r s = .next t) :
    ∃ f, t = { s with tx := s.tx ++ [f], ret := .none } := by
  simp only [setMotors] at h
  split at h
  · exact sendWrite_next h
  · cases h

theorem setMotor_next {p : Byte} {v : Int} {s t : State} (h : setMotor p v s = .next t) :
    ∃ f, t = { s with tx := s.tx ++ [f], ret := .none } := by
  simp only [setMotor] at h
  split at h
  · exact sendWrite_next h
  · cases h

theorem drive_next {l r v : Int} {s t : State} (h : drive l r v s = .next t) :
    ∃ f, t = { s with tx := s.tx ++ [f], ret := .none } := by
  simp only [drive] at h
  split at h
  · exact setMotors_next h
  · cases h

theorem playTone_next {p d : Int} {s t : State} (h : playTone p d s = .next t) :
    ∃ f, t = { s with tx := s.tx ++ [f], ret := .none } := by
  simp only [playTone] at h
  split at h
  · exact sendWrite_next h
  · cases h

/-! The 16-bit split on bits (R92, R123). -/

/-- The low byte is bits 7 to 0 of the 16-bit pattern. -/
theorem lowByte_eq (v : Int) : lowByte v = (BitVec.ofInt 16 v).extractLsb' 0 8 := by
  apply BitVec.eq_of_toNat_eq
  have h : ((v % 65536).toNat : Int) = v % 65536 := Int.toNat_of_nonneg (by omega)
  simp only [lowByte, BitVec.toNat_ofInt, BitVec.extractLsb'_toNat, Nat.shiftRight_zero]
  omega

/-- The high byte is bits 15 to 8 of the 16-bit pattern. -/
theorem highByte_eq (v : Int) : highByte v = (BitVec.ofInt 16 v).extractLsb' 8 8 := by
  apply BitVec.eq_of_toNat_eq
  simp only [highByte, BitVec.toNat_ofInt, BitVec.extractLsb'_toNat, Nat.shiftRight_eq_div_pow]
  omega

/-- The two bytes of the split are the field's bytes in wire order. -/
theorem splitBytes_eq (v : Int) : [lowByte v, highByte v] = halfBytes (BitVec.ofInt 16 v) := by
  rw [lowByte_eq, highByte_eq]; rfl

/-- `decode16` is the signed reading of the 16-bit field (R124). -/
theorem decode16_eq (lo hi : Byte) : decode16 lo hi =
    if (hi.toNat * 256 + lo.toNat : Int) < 32768 then (hi.toNat * 256 + lo.toNat : Int)
    else (hi.toNat * 256 + lo.toNat : Int) - 65536 := by
  have h := lo.isLt
  have e : (hi.toNat <<< 8) ||| lo.toNat = hi.toNat * 256 + lo.toNat := by
    rw [← Nat.shiftLeft_add_eq_or_of_lt h, Nat.shiftLeft_eq]
  simp only [decode16, e, sext]
  push_cast
  split <;> split <;> omega

/-! The little-endian compositions (R183 to R185). -/

theorem compose2_eq (p0 p1 : Byte) : compose2 p0 p1 = BitVec.ofNat 32 (p0.toNat + 256 * p1.toNat) := by
  apply BitVec.eq_of_toNat_eq
  have h0 := p0.isLt
  have h1 := p1.isLt
  simp only [compose2, BitVec.toNat_or, BitVec.toNat_shiftLeft, BitVec.truncate_eq_setWidth, BitVec.toNat_setWidth,
    BitVec.toNat_ofNat]
  rw [Nat.mod_eq_of_lt (a := p1.toNat) (by omega), Nat.mod_eq_of_lt (a := p0.toNat) (by omega),
    Nat.mod_eq_of_lt (a := p1.toNat <<< 8) (by rw [Nat.shiftLeft_eq]; omega),
    ← Nat.shiftLeft_add_eq_or_of_lt h0, Nat.shiftLeft_eq]
  omega

theorem compose4_eq_word (p0 p1 p2 p3 : Byte) : compose4 p0 p1 p2 p3 = word p0 p1 p2 p3 := by
  apply BitVec.eq_of_getLsbD_eq
  intro i hi
  simp only [compose4, word, BitVec.getLsbD_or, BitVec.getLsbD_shiftLeft, BitVec.truncate_eq_setWidth,
    BitVec.getLsbD_setWidth, BitVec.getLsbD_append, hi, decide_true, Bool.true_and]
  by_cases h8 : i < 8
  · have : ∀ k, 8 ≤ k → i < k := fun k hk => by omega
    simp [h8, this]
  · by_cases h16 : i < 16
    · have g0 : p0.getLsbD i = false := BitVec.getLsbD_of_ge _ _ (by omega)
      have a : i < 24 := by omega
      have b : i - 8 < 8 := by omega
      have c : i - 8 < 32 := by omega
      simp [h8, h16, a, b, c, g0]
    · by_cases h24 : i < 24
      · have g0 : p0.getLsbD i = false := BitVec.getLsbD_of_ge _ _ (by omega)
        have g1 : p1.getLsbD (i - 8) = false := BitVec.getLsbD_of_ge _ _ (by omega)
        have a : ¬ i - 8 < 8 := by omega
        have b : i - 8 - 8 < 8 := by omega
        have c : i - 16 < 32 := by omega
        have e : i - 8 - 8 = i - 16 := by omega
        have b' : i - 16 < 8 := by omega
        simp [h8, h16, h24, a, e, b', c, g0, g1]
      · have g0 : p0.getLsbD i = false := BitVec.getLsbD_of_ge _ _ (by omega)
        have g1 : p1.getLsbD (i - 8) = false := BitVec.getLsbD_of_ge _ _ (by omega)
        have g2 : p2.getLsbD (i - 16) = false := BitVec.getLsbD_of_ge _ _ (by omega)
        have a : ¬ i - 8 < 8 := by omega
        have b : ¬ i - 8 - 8 < 8 := by omega
        have c : i - 24 < 32 := by omega
        have e : i - 8 - 8 - 8 = i - 24 := by omega
        simp [h8, h16, h24, a, b, e, c, g0, g1, g2]

/-! The facade's shared operations inside their domains. -/

/-- `setMotors` (R243). -/
theorem setMotors_eq {l r : Int} (h1 : -32768 ≤ l) (h2 : l ≤ 32767) (h3 : -32768 ≤ r) (h4 : r ≤ 32767) (s : State) :
    setMotors l r s = .next { s with ret := .none, tx := s.tx ++
      [commandFrame 1 Config.modeWrite 0x05 (halfBytes (BitVec.ofInt 16 l) ++ halfBytes (BitVec.ofInt 16 r))] } := by
  rw [setMotors, if_pos (by simp [inSigned16, h1, h2, h3, h4]), sendWrite_eq (by simp), ← splitBytes_eq,
    ← splitBytes_eq]
  rfl

/-- `setMotor` (R244). -/
theorem setMotor_eq {v : Int} (h1 : -32768 ≤ v) (h2 : v ≤ 32767) (p : Byte) (s : State) :
    setMotor p v s = .next { s with ret := .none, tx := s.tx ++
      [commandFrame 1 Config.modeWrite 0x0A (p :: halfBytes (BitVec.ofInt 16 v))] } := by
  rw [setMotor, if_pos (by simp [inSigned16, h1, h2]), sendWrite_eq (by simp), ← splitBytes_eq]
  rfl

/-- TURN_LEFT_SIGN is one of its two values (R8, R247). -/
theorem turnLeftSign_cases : Config.turnLeftSign = 1 ∨ Config.turnLeftSign = -1 := by
  unfold Config.turnLeftSign; split <;> simp

/-- A directional helper is the motor-pair frame of its signs (R102). -/
theorem drive_eq {a b v : Int} (h1 : -32767 ≤ v) (h2 : v ≤ 32767) (ha : a = 1 ∨ a = -1) (hb : b = 1 ∨ b = -1)
    (s : State) : drive a b v s = .next { s with ret := .none, tx := s.tx ++
      [commandFrame 1 Config.modeWrite 0x05
        (halfBytes (BitVec.ofInt 16 (a * v)) ++ halfBytes (BitVec.ofInt 16 (b * v)))] } := by
  rw [drive, if_pos (by simp [inNegatable16, h1, h2])]
  apply setMotors_eq <;> rcases ha with rfl | rfl <;> rcases hb with rfl | rfl <;> omega

/-- `playTone` (R251). -/
theorem playTone_eq {l r : Int} (h1 : 0 ≤ l) (h2 : l ≤ 65535) (h3 : 0 ≤ r) (h4 : r ≤ 65535) (s : State) :
    playTone l r s = .next { s with ret := .none, tx := s.tx ++
      [commandFrame 1 Config.modeWrite Config.devBuzzer
        (halfBytes (BitVec.ofInt 16 l) ++ halfBytes (BitVec.ofInt 16 r))] } := by
  rw [playTone, if_pos (by simp [inUnsigned16, h1, h2, h3, h4]), sendWrite_eq (by simp), ← splitBytes_eq,
    ← splitBytes_eq]
  rfl

end Sys2Proof.Machine
end

