-- ==== Sys2Proof/Laws/Receive.lean ====
section
/-! SUPPORT. What `feed`, dispatch, `rxByte` and `rxChunk` can do. -/

namespace Sys2Proof.Machine

/-! Each step of `feed` as one record update (R141 to R147). -/

section
variable (b : Byte) (s : State)

theorem feedAwaitPrefixA_eq : feedAwaitPrefixA b s
    = { s with rxs := if b = Config.prefixA then .awaitPrefixB else .awaitPrefixA } := by
  unfold feedAwaitPrefixA; split <;> rfl

theorem feedAwaitPrefixB_eq : feedAwaitPrefixB b s
    = { s with rxs := if b = Config.prefixB then .awaitIndex else .awaitPrefixA } := by
  unfold feedAwaitPrefixB; split <;> rfl

theorem feedAwaitIndex_eq : feedAwaitIndex b s = { s with rxIndex := b, rxs := .awaitDataType } := rfl

theorem feedAwaitDataType_known (h : knownTag b = true) : feedAwaitDataType b s
    = { s with rxType := b, pbuf := [], rxRemaining := remainingAfterTag b, rxLenPending := lenPendingAfterTag b,
               rxs := .awaitPayload } := by
  unfold feedAwaitDataType; rw [if_pos h]; rfl

theorem feedAwaitDataType_unknown (h : ¬ knownTag b = true) : feedAwaitDataType b s
    = { s with rxs := .awaitPrefixA } := by
  unfold feedAwaitDataType; rw [if_neg h]; rfl

theorem feedAwaitPayload_length (h : s.rxLenPending = true) : feedAwaitPayload b s
    = { s with rxRemaining := b, rxLenPending := false,
               rxs := if b = 0 then .awaitSuffixA else .awaitPayload } := by
  simp only [feedAwaitPayload, countOrStore, h, if_true]
  by_cases hb : b = 0 <;> simp only [State.setRxLenPending_rxRemaining, State.setRxRemaining_rxRemaining, hb,
    if_true, if_false] <;> rfl

theorem feedAwaitPayload_data (h : s.rxLenPending = false) : feedAwaitPayload b s
    = { s with pbuf := s.pbuf ++ [b], rxRemaining := s.rxRemaining - 1,
               rxs := if s.rxRemaining - 1 = 0 then .awaitSuffixA else .awaitPayload } := by
  have hc : countOrStore b s = (s.appendPbuf b).setRxRemaining (s.rxRemaining - 1) := by
    rw [countOrStore, if_neg (by simp [h])]
  simp only [feedAwaitPayload, hc]
  by_cases hb : s.rxRemaining - 1 = 0 <;> simp only [State.setRxRemaining_rxRemaining, hb, if_true, if_false] <;>
    rfl

theorem feedAwaitSuffixA_eq : feedAwaitSuffixA b s
    = { s with rxs := if b = Config.suffixA then .awaitSuffixB else .awaitPrefixA } := by
  unfold feedAwaitSuffixA; split <;> rfl

theorem feedAwaitSuffixB_eq : feedAwaitSuffixB s = { s with rxs := .awaitPrefixA } := rfl
end

/-! `feed` touches the receive registers only (R140). -/

section
variable (b : Byte) (s : State)

/-- All that `feed` leaves alone. -/
theorem feed_frame : (feed b s).1.cursor = s.cursor ∧ (feed b s).1.tbl = s.tbl ∧
    (feed b s).1.pending = s.pending ∧ (feed b s).1.freeCount = s.freeCount ∧ (feed b s).1.ret = s.ret ∧
    (feed b s).1.tx = s.tx ∧ (feed b s).1.cb = s.cb := by
  unfold feed
  cases s.rxs
  · simp [feedAwaitPrefixA_eq]
  · simp [feedAwaitPrefixB_eq]
  · simp [feedAwaitIndex_eq]
  · by_cases h : knownTag b = true
    · simp [feedAwaitDataType_known b s h]
    · simp [feedAwaitDataType_unknown b s h]
  · cases h : s.rxLenPending
    · simp [feedAwaitPayload_data b s h]
    · simp [feedAwaitPayload_length b s h]
  · simp [feedAwaitSuffixA_eq]
  · simp [feedAwaitSuffixB_eq]

@[simp] theorem feed_cursor : (feed b s).1.cursor = s.cursor := (feed_frame b s).1
@[simp] theorem feed_tbl : (feed b s).1.tbl = s.tbl := (feed_frame b s).2.1
@[simp] theorem feed_pending : (feed b s).1.pending = s.pending := (feed_frame b s).2.2.1
@[simp] theorem feed_freeCount : (feed b s).1.freeCount = s.freeCount := (feed_frame b s).2.2.2.1
@[simp] theorem feed_ret : (feed b s).1.ret = s.ret := (feed_frame b s).2.2.2.2.1
@[simp] theorem feed_tx : (feed b s).1.tx = s.tx := (feed_frame b s).2.2.2.2.2.1
@[simp] theorem feed_cb : (feed b s).1.cb = s.cb := (feed_frame b s).2.2.2.2.2.2
end

/-- `feed` does not look at the table (R140). -/
theorem feed_setTbl (b : Byte) (s : State) (x : Table) :
    feed b (s.setTbl x) = ((feed b s).1.setTbl x, (feed b s).2) := by
  cases s with
  | mk rxs rxIndex rxType rxRemaining rxLenPending pbuf cursor tbl pending freeCount ret tx cb =>
    unfold feed feedAwaitPrefixA feedAwaitPrefixB feedAwaitIndex feedAwaitDataType feedAwaitPayload countOrStore
      feedAwaitSuffixA feedAwaitSuffixB emittedFrame memRead
    cases rxs <;> simp only [State.setTbl]
    · split <;> rfl
    · split <;> rfl
    · rfl
    · split <;> rfl
    · cases rxLenPending
      · simp only [Bool.false_eq_true, if_false, State.setRxRemaining, State.appendPbuf, State.setPbuf]
        split <;> rfl
      · simp only [if_true, State.setRxRemaining, State.setRxLenPending]
        split <;> rfl
    · split <;> rfl
    · rfl

/-- A frame is completed only by 0x0A in AwaitSuffixB, and it is the registers as they stand (R147). -/
theorem feed_some {b : Byte} {s : State} {f : CompletedFrame} (h : (feed b s).2 = some f) :
    s.rxs = .awaitSuffixB ∧ b = 0x0A ∧ f = ⟨s.rxIndex, s.rxType, s.pbuf⟩ ∧
      (feed b s).1 = s.setRxs .awaitPrefixA := by
  unfold feed at h ⊢
  split at h <;> simp_all [emittedFrame, feedAwaitSuffixB, Config.suffixB]

/-! The decoder's domain (R181, R188). -/

/-- `decode` answers exactly where the payload is what the tag demands. -/
theorem decodePayload_isSome (tag : Byte) (p : List Byte) :
    (decodePayload tag p).isSome = true ↔ payloadFits tag p.length := by
  unfold decodePayload payloadFits knownTag knownTags tagLength
  by_cases h1 : tag = Config.tagByte
  · subst h1
    rcases p with _ | ⟨a, _ | ⟨b, p⟩⟩ <;> simp [Config.tagByte, Config.tagText, Config.lenByte]
  by_cases h2 : tag = Config.tagShort
  · subst h2
    rcases p with _ | ⟨a, _ | ⟨b, _ | ⟨c, p⟩⟩⟩ <;>
      simp [Config.tagByte, Config.tagText, Config.tagShort, Config.lenShort]
  by_cases h3 : tag = Config.tagLong
  · subst h3
    rcases p with _ | ⟨a, _ | ⟨b, _ | ⟨c, _ | ⟨d, _ | ⟨e, p⟩⟩⟩⟩⟩ <;>
      simp [Config.tagByte, Config.tagText, Config.tagShort, Config.tagLong, Config.lenLong, Config.tagFloat,
        Config.tagDouble]
  by_cases h4 : tag = Config.tagFloat
  · subst h4
    rcases p with _ | ⟨a, _ | ⟨b, _ | ⟨c, _ | ⟨d, _ | ⟨e, p⟩⟩⟩⟩⟩ <;>
      simp [Config.tagByte, Config.tagText, Config.tagShort, Config.tagLong, Config.lenFloat, Config.tagFloat,
        Config.tagDouble]
  by_cases h5 : tag = Config.tagDouble
  · subst h5
    rcases p with _ | ⟨a, _ | ⟨b, _ | ⟨c, _ | ⟨d, _ | ⟨e, p⟩⟩⟩⟩⟩ <;>
      simp [Config.tagByte, Config.tagText, Config.tagShort, Config.tagLong, Config.lenDouble, Config.tagFloat,
        Config.tagDouble]
  by_cases h6 : tag = Config.tagText
  · subst h6
    by_cases h : p.length ≤ Config.textMax <;>
      simp [h, Config.tagByte, Config.tagText, Config.tagShort, Config.tagLong, Config.tagFloat, Config.tagDouble]
  · simp [h1, h2, h3, h4, h5, h6]

/-! The invariant of R33 under `feed`. -/

/-- After a known tag the count and the flag are as I-4 and I-5 say. -/
theorem parser_after_tag {b : Byte} (h : knownTag b = true) (s : State) :
    ParserConsistent (feedAwaitDataType b s) := by
  have hb : b = Config.tagByte ∨ b = Config.tagFloat ∨ b = Config.tagShort ∨ b = Config.tagText ∨
      b = Config.tagDouble ∨ b = Config.tagLong := by
    simpa [knownTag, knownTags] using h
  rcases hb with rfl | rfl | rfl | rfl | rfl | rfl <;>
    simp [feedAwaitDataType, ParserConsistent, knownTag, knownTags, payloadFits, remainingAfterTag,
      lenPendingAfterTag, tagLength, Config.tagByte, Config.tagFloat, Config.tagShort, Config.tagText,
      Config.tagDouble, Config.tagLong, Config.lenByte, Config.lenShort, Config.lenFloat, Config.lenDouble,
      Config.lenLong, Config.textProvisional]

/-- R145 keeps I-4 to I-7 and the bound of PBUF. -/
theorem parser_after_payload {b : Byte} {s : State} (hx : s.rxs = .awaitPayload) (hi : ParserConsistent s) :
    ParserConsistent (feedAwaitPayload b s) ∧
      (s.pbuf.length ≤ 255 → (feedAwaitPayload b s).pbuf.length ≤ 255) := by
  simp only [ParserConsistent, hx] at hi
  cases hl : s.rxLenPending
  · simp only [hl, Bool.false_eq_true, if_false] at hi
    obtain ⟨hr, hk, hfit⟩ := hi
    have hlt := s.rxRemaining.isLt
    have hdec : (s.rxRemaining - 1).toNat = s.rxRemaining.toNat - 1 := by
      have : (1 : Byte).toNat = 1 := rfl
      rw [BitVec.toNat_sub]
      omega
    have e : s.pbuf.length + 1 + (s.rxRemaining.toNat - 1) = s.pbuf.length + s.rxRemaining.toNat := by omega
    have hfit' : payloadFits s.rxType (s.pbuf.length + 1 + (s.rxRemaining - 1).toNat) := by
      refine ⟨hk, ?_⟩
      rw [hdec, e]
      exact hfit
    have hbound : s.pbuf.length + 1 ≤ 255 := by
      by_cases htx : s.rxType = Config.tagText
      · rw [if_pos htx] at hfit
        have : Config.textMax = 255 := rfl
        omega
      · rw [if_neg htx] at hfit
        have := (tagLength s.rxType).isLt
        omega
    rw [feedAwaitPayload_data b s hl]
    refine ⟨?_, fun _ => by simpa using hbound⟩
    by_cases h0 : s.rxRemaining - 1 = 0
    · have hz : (s.rxRemaining - 1).toNat = 0 := by rw [h0]; rfl
      rw [hz, Nat.add_zero] at hfit'
      simp only [ParserConsistent, h0, if_true, List.length_append, List.length_singleton, true_and]
      exact hfit'
    · have hz : 1 ≤ (s.rxRemaining - 1).toNat := by
        rcases Nat.eq_zero_or_pos (s.rxRemaining - 1).toNat with h | h
        · exact absurd (BitVec.eq_of_toNat_eq h) h0
        · exact h
      simp only [ParserConsistent, h0, if_false, hl, Bool.false_eq_true, List.length_append, List.length_singleton]
      exact ⟨hz, hfit'⟩
  · simp only [hl, if_true] at hi
    obtain ⟨ht, -, hp⟩ := hi
    have hb := b.isLt
    have hk : knownTag Config.tagText = true := by decide
    rw [feedAwaitPayload_length b s hl]
    refine ⟨?_, fun h => h⟩
    by_cases h0 : b = 0
    · simp [ParserConsistent, h0, payloadFits, ht, hp, hk]
    · have hb0 : b.toNat ≠ 0 := fun h => h0 (BitVec.eq_of_toNat_eq h)
      have : Config.textMax = 255 := rfl
      simp only [ParserConsistent, h0, if_false, Bool.false_eq_true, payloadFits, ht, hp, hk, if_true,
        List.length_nil, true_and]
      omega

/-- `feed` keeps the invariant. -/
theorem feed_keeps_inv {b : Byte} {s : State} (hi : Invariant s) : Invariant (feed b s).1 := by
  have key : ParserConsistent (feed b s).1 ∧ (feed b s).1.pbuf.length ≤ Config.textMax := by
    have hp := hi.parser
    have hb := hi.pbuf_bound
    unfold feed
    cases hx : s.rxs
    · rw [feedAwaitPrefixA_eq]
      by_cases h : b = Config.prefixA <;> exact ⟨by simp [ParserConsistent, h], hb⟩
    · rw [feedAwaitPrefixB_eq]
      by_cases h : b = Config.prefixB <;> exact ⟨by simp [ParserConsistent, h], hb⟩
    · exact ⟨trivial, hb⟩
    · by_cases hk : knownTag b = true
      · exact ⟨parser_after_tag hk s, by simp [feedAwaitDataType_known b s hk]⟩
      · simp only [feedAwaitDataType_unknown b s hk]; exact ⟨trivial, hb⟩
    · exact ⟨(parser_after_payload hx hp).1, (parser_after_payload hx hp).2 hb⟩
    · simp only [ParserConsistent, hx] at hp
      rw [feedAwaitSuffixA_eq]
      by_cases h : b = Config.suffixA <;> exact ⟨by simp [ParserConsistent, h, hp], hb⟩
    · exact ⟨trivial, hb⟩
  exact ⟨by simpa using hi.cursor_range, by simpa using hi.live_keys, by simpa using hi.keys_match,
    by simpa using hi.table_wf, key.2, key.1⟩

/-- A frame the parser emits is in the decoder's domain (R31, R181). -/
theorem emitted_fits {b : Byte} {s : State} {f : CompletedFrame} (hi : Invariant s) (h : (feed b s).2 = some f) :
    payloadFits f.type f.payload.length := by
  obtain ⟨hx, -, rfl, -⟩ := feed_some h
  have := hi.parser
  simp only [ParserConsistent, hx] at this
  exact this.2

/-! Dispatch and `rxByte` (R150). -/

/-- What one RX byte can do: feed only, or feed with a miss, or feed with a hit that emits once and removes. -/
theorem rxByte_next {b : Byte} {s t : State} (h : rxByte b s = .next t) :
    t = (feed b s).1 ∨
    ∃ f e v, (feed b s).2 = some f ∧ tblLookup s.tbl f.index = some e ∧ decodePayload f.type f.payload = some v ∧
      t = { (feed b s).1 with tbl := tblRemove s.tbl f.index, cb := s.cb ++ [(e.onResolve, v)] } := by
  simp only [rxByte] at h
  split at h
  next u hf => cases h; exact .inl (by rw [hf])
  next u f hf =>
    have h1 : (feed b s).1 = u := by rw [hf]
    have h2 : (feed b s).2 = some f := by rw [hf]
    have htbl : u.tbl = s.tbl := by rw [← h1]; simp
    have hcb : u.cb = s.cb := by rw [← h1]; simp
    simp only [dispatch, htbl] at h
    split at h
    next hn => cases h; exact .inl h1.symm
    next e he =>
      split at h
      next v hv =>
        cases h
        refine .inr ⟨f, e, v, h2, he, hv, ?_⟩
        rcases resolve_cases f.index v u with ⟨hm, -⟩ | ⟨e', he', hr⟩
        · rw [htbl, he] at hm; cases hm
        · rw [htbl, he] at he'; cases he'
          rw [hr, h1, htbl, hcb]
      next => cases h

/-- Under the invariant no RX byte stops the machine. -/
theorem rxByte_completes {b : Byte} {s : State} (hi : Invariant s) : ∃ t, rxByte b s = .next t := by
  simp only [rxByte]
  split
  next u hf => exact ⟨u, rfl⟩
  next u f hf =>
    have h2 : (feed b s).2 = some f := by rw [hf]
    have hfit := (decodePayload_isSome f.type f.payload).2 (emitted_fits hi h2)
    obtain ⟨v, hv⟩ := Option.isSome_iff_exists.1 hfit
    simp only [dispatch]
    split
    · exact ⟨_, rfl⟩
    · simp [hv]

theorem rxByte_keeps_inv {b : Byte} {s t : State} (hi : Invariant s) (h : rxByte b s = .next t) : Invariant t := by
  have hf := feed_keeps_inv (b := b) hi
  rcases rxByte_next h with rfl | ⟨f, e, v, -, -, -, rfl⟩
  · exact hf
  · exact ⟨hf.cursor_range, fun p hp => hi.live_keys p (mem_of_mem_remove hp),
      fun p hp => hi.keys_match p (mem_of_mem_remove hp), wf_tblRemove hi.table_wf, hf.pbuf_bound, hf.parser⟩

/-! `rxChunk` (R151). -/

/-- A relation that every byte's step has, and that composes, holds across a chunk. -/
theorem rxChunk_induct {R : State → State → Prop} (refl : ∀ s, R s s)
    (step : ∀ {b s t u}, rxByte b s = .next t → R t u → R s u) :
    ∀ {bs : List Byte} {s t : State}, rxChunk bs s = .next t → R s t
  | [], s, t, h => by cases h; exact refl s
  | b :: bs, s, t, h => by
    simp only [rxChunk] at h
    split at h
    next u hu => exact step hu (rxChunk_induct refl step h)
    next => cases h
    next => cases h

theorem rxChunk_keeps_inv {bs : List Byte} {s t : State} (hi : Invariant s) (h : rxChunk bs s = .next t) : Invariant t := by
  induction bs generalizing s with
  | nil => cases h; exact hi
  | cons b bs ih =>
    simp only [rxChunk] at h
    split at h
    next u hu => exact ih (rxByte_keeps_inv hi hu) h
    next => cases h
    next => cases h

theorem rxChunk_completes {bs : List Byte} {s : State} (hi : Invariant s) : ∃ t, rxChunk bs s = .next t := by
  induction bs generalizing s with
  | nil => exact ⟨s, rfl⟩
  | cons b bs ih =>
    obtain ⟨u, hu⟩ := rxByte_completes (b := b) hi
    obtain ⟨t, ht⟩ := ih (rxByte_keeps_inv hi hu)
    exact ⟨t, by simp [rxChunk, hu, ht]⟩

/-- Chunks in sequence are the chunk of their concatenation. -/
theorem rxChunk_append (a b : List Byte) (s : State) : rxChunk (a ++ b) s =
    match rxChunk a s with
    | .next t => rxChunk b t
    | .fault f => .fault f
    | .refused r => .refused r := by
  induction a generalizing s with
  | nil => rfl
  | cons x a ih =>
    simp only [List.cons_append, rxChunk]
    cases rxByte x s with
    | next t => exact ih t
    | fault f => rfl
    | refused r => rfl

/-- Nothing on RX reads the value handed back by an earlier transaction. -/
theorem rxChunk_setRet (bs : List Byte) (s : State) (r : CmdResult) :
    rxChunk bs (s.setRet r) =
      match rxChunk bs s with
      | .next t => .next (t.setRet r)
      | .fault f => .fault f
      | .refused q => .refused q := by
  have hfeed : ∀ (b : Byte) (s : State), feed b (s.setRet r) = ((feed b s).1.setRet r, (feed b s).2) := by
    intro b s
    cases s with
    | mk rxs rxIndex rxType rxRemaining rxLenPending pbuf cursor tbl pending freeCount ret tx cb =>
      unfold feed feedAwaitPrefixA feedAwaitPrefixB feedAwaitIndex feedAwaitDataType feedAwaitPayload countOrStore
        feedAwaitSuffixA feedAwaitSuffixB emittedFrame memRead
      cases rxs <;> simp only [State.setRet]
      · split <;> rfl
      · split <;> rfl
      · rfl
      · split <;> rfl
      · cases rxLenPending
        · simp only [Bool.false_eq_true, if_false, State.setRxRemaining, State.appendPbuf, State.setPbuf]
          split <;> rfl
        · simp only [if_true, State.setRxRemaining, State.setRxLenPending]
          split <;> rfl
      · split <;> rfl
      · rfl
  have hbyte : ∀ (b : Byte) (s : State), rxByte b (s.setRet r) =
      match rxByte b s with
      | .next t => .next (t.setRet r)
      | .fault f => .fault f
      | .refused q => .refused q := by
    intro b s
    simp only [rxByte, hfeed]
    rcases hf : feed b s with ⟨u, _ | f⟩
    · rfl
    · simp only [dispatch, resolve, State.setRet_tbl]
      cases tblLookup u.tbl f.index with
      | none => rfl
      | some e => cases decodePayload f.type f.payload <;> rfl
  induction bs generalizing s with
  | nil => rfl
  | cons b bs ih =>
    simp only [rxChunk, hbyte]
    cases rxByte b s with
    | next t => exact ih t
    | fault f => rfl
    | refused q => rfl

end Sys2Proof.Machine
end

