-- ==== Sys2Proof/Laws/Exec.lean ====
section
/-! SUPPORT. What an instruction can do, said once for all of them by the kinds of R100: a proof about every
instruction starts from `exec_cases`. -/

namespace Sys2Proof.Machine

/-- A completed chunk, with nothing handed back. -/
theorem returning_chunk {bs : List Byte} {s t : State} (h : returning .none (rxChunk bs s) = .next t) :
    ∃ bs u, rxChunk bs s = .next u ∧ t = u.setRet .none := by
  rcases returning_eq_next.1 h with ⟨u, hu, rfl⟩; exact ⟨bs, u, hu, rfl⟩

/-- A named step that runs is the step of `feed` that RXS selects (R140). -/
theorem selectedStep_next {a : RxState} {u : State} {f : Option CompletedFrame} {b : Byte} {s t : State}
    (hu : s.rxs = a → u = (feed b s).1) (h : selectedStep a u f s = .next t) :
    ∃ b r, t = (feed b s).1.setRet r := by
  unfold selectedStep at h
  split at h
  next hx => cases h; exact ⟨b, _, by rw [hu hx]⟩
  next => cases h

/-- What each instruction can do, by its effect: if it answers a next state, that state is one of these. -/
theorem exec_cases {i : Instr} {s t : State} (h : exec i s = .next t) :
    (effectOf i = .nothing ∧ ∃ r, t = s.setRet r) ∨
    (effectOf i = .feeds ∧ ∃ b r, t = (feed b s).1.setRet r) ∨
    (effectOf i = .receives ∧ ∃ bs u, rxChunk bs s = .next u ∧ t = u.setRet .none) ∨
    (effectOf i = .allocates ∧ ∃ cb, t = (allocate cb s).setRet (.index s.cursor)) ∨
    (effectOf i = .resolves ∧ ∃ k v r, t = (resolve k v s).1.setRet r) ∨
    (effectOf i = .discards ∧ t = (discardAll s).setRet .none) ∨
    (effectOf i = .writes ∧ ∃ f, t = (s.emitTx f).setRet .none) ∨
    (effectOf i = .reads ∧ ((∃ cb f, t = ((allocate cb s).emitTx f).setRet (.index s.cursor)) ∨
      ∃ f, t = (s.emitTx f).setRet .none)) ∨
    (effectOf i = .resets ∧ t = (resetEngine s).setRet .none) := by
  have toWrite (h : ∃ f, t = { s with tx := s.tx ++ [f], ret := .none }) :
      ∃ f, t = (s.emitTx f).setRet .none := h
  have toRead {d p cb} (h : sendRead d p cb s = .next t) :
      ∃ cb f, t = ((allocate cb s).emitTx f).setRet (.index s.cursor) := ⟨cb, sendRead_next h⟩
  have toReadFrame {k d p cb} (h : sendReadFrame k d p cb s = .next t) :
      (∃ cb f, t = ((allocate cb s).emitTx f).setRet (.index s.cursor)) ∨ ∃ f, t = (s.emitTx f).setRet .none :=
    (sendReadFrame_next h).imp (fun h => ⟨cb, h.2⟩) (fun h => h.2)
  have selected {a u f} (b : Byte) (hu : s.rxs = a → u = (feed b s).1) (h : selectedStep a u f s = .next t) :
      effectOf (.opFeed b) = .feeds ∧ ∃ b r, t = (feed b s).1.setRet r := ⟨rfl, selectedStep_next hu h⟩
  cases i <;> simp only [exec] at h
  case frameC =>
    exact .inr (.inr (.inr (.inr (.inr (.inr (.inl ⟨rfl, toWrite (sendFrame_next h)⟩))))))
  case frameCWrite | opSendWrite =>
    exact .inr (.inr (.inr (.inr (.inr (.inr (.inl ⟨rfl, toWrite (sendWrite_next h)⟩))))))
  case cmdLed position red green blue | opSetLED position red green blue =>
    exact .inr (.inr (.inr (.inr (.inr (.inr (.inl ⟨rfl, toWrite (sendWrite_next
      (p := [Config.ledSubcmd, position, red, green, blue]) h)⟩))))))
  case cmdMotorPair | opSetMotors | opStop =>
    exact .inr (.inr (.inr (.inr (.inr (.inr (.inl ⟨rfl, toWrite (setMotors_next h)⟩))))))
  case cmdMotor | opSetMotor =>
    exact .inr (.inr (.inr (.inr (.inr (.inr (.inl ⟨rfl, toWrite (setMotor_next h)⟩))))))
  case cmdTone | opPlayTone =>
    exact .inr (.inr (.inr (.inr (.inr (.inr (.inl ⟨rfl, toWrite (playTone_next h)⟩))))))
  case opMoveForward | opMoveBackward | opTurnLeft | opTurnRight =>
    exact .inr (.inr (.inr (.inr (.inr (.inr (.inl ⟨rfl, toWrite (drive_next h)⟩))))))
  case frameCRead | cmdReadUltrasonic | cmdReadLightness | cmdReadLineFollower =>
    exact .inr (.inr (.inr (.inr (.inr (.inr (.inr (.inl ⟨rfl, toReadFrame h⟩)))))))
  case opSendRead | opReadUltrasonic | opReadLightness | opReadLineFollower =>
    exact .inr (.inr (.inr (.inr (.inr (.inr (.inr (.inl ⟨rfl, .inl (toRead h)⟩)))))))
  case replyByte | replyFloat | replyShort | replyDouble | replyLong | ack | opRxChunk =>
    exact .inr (.inr (.inl ⟨rfl, returning_chunk h⟩))
  case replyText =>
    simp only [execReplyText] at h
    split at h
    next => exact .inr (.inr (.inl ⟨rfl, returning_chunk h⟩))
    next => cases h
  case opRxByte b =>
    obtain ⟨u, hu, rfl⟩ := returning_eq_next.1 h
    exact .inr (.inr (.inl ⟨rfl, [b], u, by simp [rxChunk, hu], rfl⟩))
  case opFeed b => cases h; exact .inr (.inl ⟨rfl, b, _, rfl⟩)
  case rxStepAwaitPrefixA b => exact .inr (.inl (selected b (fun hx => by simp [feed, hx]) h))
  case rxStepAwaitPrefixB b => exact .inr (.inl (selected b (fun hx => by simp [feed, hx]) h))
  case rxStepAwaitIndex b => exact .inr (.inl (selected b (fun hx => by simp [feed, hx]) h))
  case rxStepAwaitDataType b => exact .inr (.inl (selected b (fun hx => by simp [feed, hx]) h))
  case rxStepAwaitPayload b => exact .inr (.inl (selected b (fun hx => by simp [feed, hx]) h))
  case rxStepAwaitSuffixA b => exact .inr (.inl (selected b (fun hx => by simp [feed, hx]) h))
  case rxStepAwaitSuffixB b => exact .inr (.inl (selected b (fun hx => by simp [feed, hx]) h))
  case opAllocate cb => cases h; exact .inr (.inr (.inr (.inl ⟨rfl, cb, rfl⟩)))
  case opResolve k v => cases h; exact .inr (.inr (.inr (.inr (.inl ⟨rfl, k, v, _, rfl⟩))))
  case opDiscardAll | opOnDisconnect =>
    cases h; exact .inr (.inr (.inr (.inr (.inr (.inl ⟨rfl, rfl⟩)))))
  case opReset => cases h; exact .inr (.inr (.inr (.inr (.inr (.inr (.inr (.inr ⟨rfl, rfl⟩)))))))
  case opEncode =>
    simp only [execEncode] at h
    split at h
    next => cases h; exact .inl ⟨rfl, _, rfl⟩
    next => cases h
  case opSplit16 =>
    simp only [execSplit16] at h
    split at h
    next => cases h; exact .inl ⟨rfl, _, rfl⟩
    next => cases h
  case opDecode =>
    simp only [execDecode] at h
    split at h
    next => cases h; exact .inl ⟨rfl, _, rfl⟩
    next => cases h
  case opDecode16 | opIntValue | opFloatValue | opTextValue | opIsExpired | opOnConnect =>
    cases h; exact .inl ⟨rfl, _, rfl⟩

end Sys2Proof.Machine
end

