-- ==== Sys2Proof/Laws/Frames.lean ====
section
/-! SUPPORT. Bytes in sequence: the payload bytes, the suffix, and a whole reply frame met in AwaitPrefixA (R155). -/

namespace Sys2Proof.Machine

/-- A byte that completes no frame is `feed` alone (R150). -/
theorem rxByte_of_feed {b : Byte} {s t : State} (h : feed b s = (t, none)) : rxByte b s = .next t := by
  simp only [rxByte, h]

/-- The first byte of a chunk, where it completes no frame. -/
theorem rxChunk_cons {b : Byte} {bs : List Byte} {s t : State} (h : feed b s = (t, none)) :
    rxChunk (b :: bs) s = rxChunk bs t := by
  simp only [rxChunk, rxByte_of_feed h]

/-- One payload byte (R145). -/
theorem feed_payload_data {b : Byte} {s : State} (hs : s.rxs = .awaitPayload) (hl : s.rxLenPending = false) :
    feed b s = ({ s with pbuf := s.pbuf ++ [b], rxRemaining := s.rxRemaining - 1,
                         rxs := if s.rxRemaining - 1 = 0 then .awaitSuffixA else .awaitPayload }, none) := by
  simp only [feed, hs, feedAwaitPayload_data b s hl]

/-- The count after one of at least one expected byte. -/
theorem remaining_sub_one {n : Byte} (h : 1 ≤ n.toNat) : (n - 1).toNat = n.toNat - 1 := by
  have : (1 : Byte).toNat = 1 := rfl
  have := n.isLt
  rw [BitVec.toNat_sub]
  omega

/-- Exactly the expected payload bytes, whatever they are, are stored and end in AwaitSuffixA (R145, R153). -/
theorem rxChunk_payload {bs : List Byte} {s : State} (hs : s.rxs = .awaitPayload) (hl : s.rxLenPending = false)
    (hn : bs.length = s.rxRemaining.toNat) (h0 : bs ≠ []) :
    rxChunk bs s = .next { s with pbuf := s.pbuf ++ bs, rxRemaining := 0, rxs := .awaitSuffixA } := by
  induction bs generalizing s with
  | nil => exact absurd rfl h0
  | cons b bs ih =>
    simp only [List.length_cons] at hn
    have h1 := remaining_sub_one (n := s.rxRemaining) (by omega)
    rw [rxChunk_cons (feed_payload_data hs hl)]
    cases bs with
    | nil =>
      have hz : s.rxRemaining - 1 = 0 := BitVec.eq_of_toNat_eq (by rw [h1, ← hn]; rfl)
      rw [hz]; rfl
    | cons c bs =>
      have hz : s.rxRemaining - 1 ≠ 0 := fun h => by
        rw [h] at h1; simp only [List.length_cons] at hn; simp at h1; omega
      rw [if_neg hz]
      refine (ih (s := { s with pbuf := s.pbuf ++ [b], rxRemaining := s.rxRemaining - 1, rxs := .awaitPayload })
        rfl hl (by simp only [h1]; omega) (by simp)).trans ?_
      simp

/-- The suffix after a payload in the decoder's domain: the frame is completed and dispatched (R146, R147, R150). -/
theorem rxChunk_suffix {s : State} {v : SensorValue} (hs : s.rxs = .awaitSuffixA)
    (hv : decodePayload s.rxType s.pbuf = some v) :
    rxChunk [0x0D, 0x0A] s = .next (resolve s.rxIndex v { s with rxs := .awaitPrefixA }).1 := by
  have ha : feed 0x0D s = ({ s with rxs := .awaitSuffixB }, none) := by
    simp only [feed, hs, feedAwaitSuffixA_eq]; rfl
  have hb : feed 0x0A { s with rxs := .awaitSuffixB }
      = ({ s with rxs := .awaitPrefixA }, some ⟨s.rxIndex, s.rxType, s.pbuf⟩) := by
    simp only [feed, feedAwaitSuffixB_eq, emittedFrame, memRead_whole]; rfl
  rw [rxChunk_cons ha]
  simp only [rxChunk, rxByte, hb, dispatch, hv]
  cases h : tblLookup s.tbl s.rxIndex <;> simp only [resolve, h]

/-- The first four bytes of a reply frame with a known tag (R141 to R144). -/
theorem rxChunk_header {k tag : Byte} (hk : knownTag tag = true) (bs : List Byte) {s : State}
    (hs : s.rxs = .awaitPrefixA) :
    rxChunk (0xFF :: 0x55 :: k :: tag :: bs) s = rxChunk bs { s with
      rxIndex := k, rxType := tag, pbuf := [], rxRemaining := remainingAfterTag tag
      rxLenPending := lenPendingAfterTag tag, rxs := .awaitPayload } := by
  have h1 : feed 0xFF s = ({ s with rxs := .awaitPrefixB }, none) := by
    simp only [feed, hs, feedAwaitPrefixA_eq]; rfl
  have h2 : feed 0x55 { s with rxs := .awaitPrefixB } = ({ s with rxs := .awaitIndex }, none) := by
    simp only [feed, feedAwaitPrefixB_eq]; rfl
  have h3 : feed k { s with rxs := .awaitIndex } = ({ s with rxIndex := k, rxs := .awaitDataType }, none) := rfl
  have h4 : feed tag { s with rxIndex := k, rxs := .awaitDataType } = ({ s with
      rxIndex := k, rxType := tag, pbuf := [], rxRemaining := remainingAfterTag tag
      rxLenPending := lenPendingAfterTag tag, rxs := .awaitPayload }, none) := by
    simp only [feed, feedAwaitDataType_known _ _ hk]
  rw [rxChunk_cons h1, rxChunk_cons h2, rxChunk_cons h3, rxChunk_cons h4]

/-- A numeric reply frame met in AwaitPrefixA (R155, R150). -/
theorem deliver_numeric {k tag : Byte} {p : List Byte} {v : SensorValue} {s : State} (hs : s.rxs = .awaitPrefixA)
    (hk : knownTag tag = true) (ht : tag ≠ Config.tagText) (hn : p.length = (tagLength tag).toNat) (h0 : p ≠ [])
    (hv : decodePayload tag p = some v) :
    deliver (replyFrame k tag p) s = .next ((resolve k v { s with
      rxs := .awaitPrefixA, rxIndex := k, rxType := tag, rxRemaining := 0, rxLenPending := false
      pbuf := p }).1.setRet .none) := by
  have hl : lenPendingAfterTag tag = false := by simp [lenPendingAfterTag, ht]
  have hr : remainingAfterTag tag = tagLength tag := by simp [remainingAfterTag, ht]
  have e : replyFrame k tag p = 0xFF :: 0x55 :: k :: tag :: (p ++ [0x0D, 0x0A]) := by
    simp [replyFrame, Config.prefixA, Config.prefixB, Config.suffixA, Config.suffixB]
  rw [deliver, e, rxChunk_header hk _ hs, hl, hr, rxChunk_append, rxChunk_payload rfl rfl hn h0]
  have := rxChunk_suffix (v := v) (s := { s with
    rxIndex := k, rxType := tag, pbuf := p, rxRemaining := 0, rxLenPending := false, rxs := .awaitSuffixA }) rfl hv
  simp only [List.nil_append, this, returning]

/-- A text reply frame met in AwaitPrefixA (R155, R88, R150). -/
theorem deliver_text {k : Byte} {p : List Byte} {s : State} (hs : s.rxs = .awaitPrefixA) (hn : p.length ≤ 255) :
    deliver (replyFrame k Config.tagText (BitVec.ofNat 8 p.length :: p)) s = .next ((resolve k (.text p) { s with
      rxs := .awaitPrefixA, rxIndex := k, rxType := Config.tagText, rxRemaining := 0, rxLenPending := false
      pbuf := p }).1.setRet .none) := by
  have hlen : (BitVec.ofNat 8 p.length).toNat = p.length := by
    rw [BitVec.toNat_ofNat]; exact Nat.mod_eq_of_lt (by omega)
  have hv : decodePayload Config.tagText p = some (.text p) := by
    have : p.length ≤ Config.textMax := hn
    simp [decodePayload, this, Config.tagText, Config.tagByte, Config.tagShort, Config.tagLong, Config.tagFloat,
      Config.tagDouble]
  have e : replyFrame k Config.tagText (BitVec.ofNat 8 p.length :: p)
      = 0xFF :: 0x55 :: k :: Config.tagText :: BitVec.ofNat 8 p.length :: (p ++ [0x0D, 0x0A]) := by
    simp [replyFrame, Config.prefixA, Config.prefixB, Config.suffixA, Config.suffixB]
  have hf : ∀ (b : Byte) (t : State), t.rxs = .awaitPayload → t.rxLenPending = true → feed b t
      = ({ t with rxRemaining := b, rxLenPending := false,
                  rxs := if b = 0 then .awaitSuffixA else .awaitPayload }, none) := by
    intro b t ht hl
    simp only [feed, ht, feedAwaitPayload_length b t hl]
  rw [deliver, e, rxChunk_header (by decide) _ hs, rxChunk_cons (hf _ _ rfl rfl), rxChunk_append]
  have key : rxChunk p { s with
      rxIndex := k, rxType := Config.tagText, pbuf := [], rxRemaining := BitVec.ofNat 8 p.length
      rxLenPending := false, rxs := if BitVec.ofNat 8 p.length = 0 then .awaitSuffixA else .awaitPayload }
      = .next { s with
      rxIndex := k, rxType := Config.tagText, pbuf := p, rxRemaining := 0, rxLenPending := false
      rxs := .awaitSuffixA } := by
    cases p with
    | nil => rfl
    | cons b p =>
      have : ¬ BitVec.ofNat 8 (b :: p).length = 0 := fun h => by
        rw [h] at hlen; simp at hlen
      rw [if_neg this]
      exact rxChunk_payload rfl rfl hlen.symm (by simp)
  rw [key]
  have := rxChunk_suffix (v := .text p) (s := { s with
    rxIndex := k, rxType := Config.tagText, pbuf := p, rxRemaining := 0, rxLenPending := false
    rxs := .awaitSuffixA }) rfl hv
  simp only [this, returning]

end Sys2Proof.Machine
end

