-- ==== Sys2Proof/Laws/IssueTimes.lean ====
section
/-! SUPPORT. What remains of a state, a table and an outcome when the times of the entries are forgotten, and that the
table operations do not depend on them. -/

namespace Sys2Proof.Machine

section
variable (s : State)
@[simp] theorem forgetTimes_rxs : s.forgetTimes.rxs = s.rxs := rfl
@[simp] theorem forgetTimes_rxIndex : s.forgetTimes.rxIndex = s.rxIndex := rfl
@[simp] theorem forgetTimes_rxType : s.forgetTimes.rxType = s.rxType := rfl
@[simp] theorem forgetTimes_rxRemaining : s.forgetTimes.rxRemaining = s.rxRemaining := rfl
@[simp] theorem forgetTimes_rxLenPending : s.forgetTimes.rxLenPending = s.rxLenPending := rfl
@[simp] theorem forgetTimes_pbuf : s.forgetTimes.pbuf = s.pbuf := rfl
@[simp] theorem forgetTimes_cursor : s.forgetTimes.cursor = s.cursor := rfl
@[simp] theorem forgetTimes_tbl : s.forgetTimes.tbl = s.tbl.forgetTimes := rfl
@[simp] theorem forgetTimes_pending : s.forgetTimes.pending = s.pending := rfl
@[simp] theorem forgetTimes_freeCount : s.forgetTimes.freeCount = s.freeCount := rfl
@[simp] theorem forgetTimes_ret : s.forgetTimes.ret = s.ret := rfl
@[simp] theorem forgetTimes_tx : s.forgetTimes.tx = s.tx := rfl
@[simp] theorem forgetTimes_cb : s.forgetTimes.cb = s.cb := rfl
end

@[simp] theorem forgetTimes_next (s : State) : forgetTimes (.next s) = .next s.forgetTimes := rfl
@[simp] theorem forgetTimes_refused (r : Refusal) : forgetTimes (.refused r) = .refused r := rfl

/-- Forgetting twice is forgetting once. -/
@[simp] theorem Table.forgetTimes_forgetTimes (t : Table) : t.forgetTimes.forgetTimes = t.forgetTimes := by
  simp [Table.forgetTimes]

@[simp] theorem State.forgetTimes_forgetTimes (s : State) : s.forgetTimes.forgetTimes = s.forgetTimes := by
  simp [State.forgetTimes]

/-- A lookup finds the same entry, less its time. -/
@[simp] theorem tblLookup_forgetTimes (t : Table) (k : Byte) :
    tblLookup t.forgetTimes k = (tblLookup t k).map fun e => { e with issuedAt := 0 } := by
  induction t with
  | nil => rfl
  | cons p t ih =>
    simp only [Table.forgetTimes, List.map_cons, tblLookup] at ih ⊢
    split
    next => rfl
    next => exact ih

/-- A store puts the entry in the same place. -/
theorem forgetTimes_tblStore (t : Table) (k : Byte) (e : Entry) :
    Table.forgetTimes (tblStore t k e) = tblStore t.forgetTimes k { e with issuedAt := 0 } := by
  induction t with
  | nil => rfl
  | cons p t ih =>
    simp only [Table.forgetTimes, List.map_cons, tblStore] at ih ⊢
    split
    next => rfl
    next => split <;> simp [ih]

/-- A removal removes the same key. -/
theorem forgetTimes_tblRemove (t : Table) (k : Byte) :
    Table.forgetTimes (tblRemove t k) = tblRemove t.forgetTimes k := by
  induction t with
  | nil => rfl
  | cons p t ih =>
    simp only [Table.forgetTimes, List.map_cons, tblRemove] at ih ⊢
    split
    next => rfl
    next => simp [ih]

end Sys2Proof.Machine
end

