-- ==== Sys2Proof/Laws/PerInstr.lean ====
section
/-! SUPPORT. The statements made for every instruction: each one's encoding begins with the match bytes of its row of
spec/opcode_table.json under the row's mask. -/

namespace Sys2Proof.Laws.TableRow

/-- The leading bytes agree with a row's match under its mask, each pair (mask, match), first wire byte first. -/
def rowMatches : List (Byte × Byte) → List Byte → Bool
  | [], _ => true
  | _ :: _, [] => false
  | (mask, value) :: row, b :: bytes => b &&& mask == value && rowMatches row bytes

/-- The mask and match of each instruction's row, as the table has them. -/
def row : Instr → List (Byte × Byte)
  | .frameC _ _ _ _ => [(0xFF, 0xFF), (0xFF, 0x55), (0x00, 0x00), (0x00, 0x00), (0x00, 0x00), (0x00, 0x00)]
  | .frameCWrite _ _ => [(0xFF, 0xFF), (0xFF, 0x55), (0x00, 0x00), (0xFF, 0x01), (0xFF, 0x02), (0x00, 0x00)]
  | .frameCRead _ _ _ _ => [(0xFF, 0xFF), (0xFF, 0x55), (0x00, 0x00), (0x00, 0x00), (0xFF, 0x01), (0x00, 0x00)]
  | .cmdMotorPair _ _ => [(0xFF, 0xFF), (0xFF, 0x55), (0xFF, 0x07), (0xFF, 0x01), (0xFF, 0x02), (0xFF, 0x05)]
  | .cmdMotor _ _ => [(0xFF, 0xFF), (0xFF, 0x55), (0xFF, 0x06), (0xFF, 0x01), (0xFF, 0x02), (0xFF, 0x0A)]
  | .cmdLed _ _ _ _ => [(0xFF, 0xFF), (0xFF, 0x55), (0xFF, 0x08), (0xFF, 0x01), (0xFF, 0x02), (0x00, 0x00)]
  | .cmdTone _ _ => [(0xFF, 0xFF), (0xFF, 0x55), (0xFF, 0x07), (0xFF, 0x01), (0xFF, 0x02), (0x00, 0x00)]
  | .cmdReadUltrasonic _ _ _ => [(0xFF, 0xFF), (0xFF, 0x55), (0xFF, 0x04), (0x00, 0x00), (0xFF, 0x01), (0x00, 0x00)]
  | .cmdReadLightness _ _ _ => [(0xFF, 0xFF), (0xFF, 0x55), (0xFF, 0x04), (0x00, 0x00), (0xFF, 0x01), (0x00, 0x00)]
  | .cmdReadLineFollower _ _ _ => [(0xFF, 0xFF), (0xFF, 0x55), (0xFF, 0x04), (0x00, 0x00), (0xFF, 0x01), (0x00, 0x00)]
  | .replyByte _ _ => [(0xFF, 0xFF), (0xFF, 0x55), (0x00, 0x00), (0xFF, 0x01)]
  | .replyFloat _ _ => [(0xFF, 0xFF), (0xFF, 0x55), (0x00, 0x00), (0xFF, 0x02)]
  | .replyShort _ _ => [(0xFF, 0xFF), (0xFF, 0x55), (0x00, 0x00), (0xFF, 0x03)]
  | .replyDouble _ _ => [(0xFF, 0xFF), (0xFF, 0x55), (0x00, 0x00), (0xFF, 0x05)]
  | .replyLong _ _ => [(0xFF, 0xFF), (0xFF, 0x55), (0x00, 0x00), (0xFF, 0x06)]
  | .replyText _ _ => [(0xFF, 0xFF), (0xFF, 0x55), (0x00, 0x00), (0xFF, 0x04)]
  | .ack => [(0xFF, 0xFF), (0xFF, 0x55), (0xFF, 0x0D), (0xFF, 0x0A)]
  | .rxStepAwaitPrefixA _ => [(0xFF, 0x00)]
  | .rxStepAwaitPrefixB _ => [(0xFF, 0x01)]
  | .rxStepAwaitIndex _ => [(0xFF, 0x02)]
  | .rxStepAwaitDataType _ => [(0xFF, 0x03)]
  | .rxStepAwaitPayload _ => [(0xFF, 0x04)]
  | .rxStepAwaitSuffixA _ => [(0xFF, 0x05)]
  | .rxStepAwaitSuffixB _ => [(0xFF, 0x06)]
  | .opEncode _ _ _ _ => [(0xFF, 0x00)]
  | .opSplit16 _ => [(0xFF, 0x01)]
  | .opDecode16 _ _ => [(0xFF, 0x02)]
  | .opFeed _ => [(0xFF, 0x03)]
  | .opRxByte _ => [(0xFF, 0x04)]
  | .opRxChunk _ => [(0xFF, 0x05)]
  | .opDecode _ _ => [(0xFF, 0x06)]
  | .opIntValue _ => [(0xFF, 0x07)]
  | .opFloatValue _ => [(0xFF, 0x08)]
  | .opTextValue _ => [(0xFF, 0x09)]
  | .opAllocate _ => [(0xFF, 0x0A)]
  | .opResolve _ _ => [(0xFF, 0x0B)]
  | .opDiscardAll => [(0xFF, 0x0C)]
  | .opIsExpired _ => [(0xFF, 0x0D)]
  | .opSendWrite _ _ => [(0xFF, 0x0E)]
  | .opSendRead _ _ _ => [(0xFF, 0x0F)]
  | .opSetMotors _ _ => [(0xFF, 0x10)]
  | .opSetMotor _ _ => [(0xFF, 0x11)]
  | .opMoveForward _ => [(0xFF, 0x12)]
  | .opMoveBackward _ => [(0xFF, 0x13)]
  | .opTurnLeft _ => [(0xFF, 0x14)]
  | .opTurnRight _ => [(0xFF, 0x15)]
  | .opStop => [(0xFF, 0x16)]
  | .opSetLED _ _ _ _ => [(0xFF, 0x17)]
  | .opPlayTone _ _ => [(0xFF, 0x18)]
  | .opReadUltrasonic _ _ => [(0xFF, 0x19)]
  | .opReadLightness _ _ => [(0xFF, 0x1A)]
  | .opReadLineFollower _ _ => [(0xFF, 0x1B)]
  | .opOnConnect => [(0xFF, 0x1C)]
  | .opOnDisconnect => [(0xFF, 0x1D)]
  | .opReset => [(0xFF, 0x1E)]

/-- The channel of each instruction's format: C, R and A, S, OP. -/
def channelOf : Instr → Channel
  | .frameC _ _ _ _ => .command
  | .frameCWrite _ _ => .command
  | .frameCRead _ _ _ _ => .command
  | .cmdMotorPair _ _ => .command
  | .cmdMotor _ _ => .command
  | .cmdLed _ _ _ _ => .command
  | .cmdTone _ _ => .command
  | .cmdReadUltrasonic _ _ _ => .command
  | .cmdReadLightness _ _ _ => .command
  | .cmdReadLineFollower _ _ _ => .command
  | .replyByte _ _ => .inbound
  | .replyFloat _ _ => .inbound
  | .replyShort _ _ => .inbound
  | .replyDouble _ _ => .inbound
  | .replyLong _ _ => .inbound
  | .replyText _ _ => .inbound
  | .ack => .inbound
  | .rxStepAwaitPrefixA _ => .rxStep
  | .rxStepAwaitPrefixB _ => .rxStep
  | .rxStepAwaitIndex _ => .rxStep
  | .rxStepAwaitDataType _ => .rxStep
  | .rxStepAwaitPayload _ => .rxStep
  | .rxStepAwaitSuffixA _ => .rxStep
  | .rxStepAwaitSuffixB _ => .rxStep
  | .opEncode _ _ _ _ => .call
  | .opSplit16 _ => .call
  | .opDecode16 _ _ => .call
  | .opFeed _ => .call
  | .opRxByte _ => .call
  | .opRxChunk _ => .call
  | .opDecode _ _ => .call
  | .opIntValue _ => .call
  | .opFloatValue _ => .call
  | .opTextValue _ => .call
  | .opAllocate _ => .call
  | .opResolve _ _ => .call
  | .opDiscardAll => .call
  | .opIsExpired _ => .call
  | .opSendWrite _ _ => .call
  | .opSendRead _ _ _ => .call
  | .opSetMotors _ _ => .call
  | .opSetMotor _ _ => .call
  | .opMoveForward _ => .call
  | .opMoveBackward _ => .call
  | .opTurnLeft _ => .call
  | .opTurnRight _ => .call
  | .opStop => .call
  | .opSetLED _ _ _ _ => .call
  | .opPlayTone _ _ => .call
  | .opReadUltrasonic _ _ => .call
  | .opReadLightness _ _ => .call
  | .opReadLineFollower _ _ => .call
  | .opOnConnect => .call
  | .opOnDisconnect => .call
  | .opReset => .call

/-- A well-formed instruction's transaction arrives on its format's channel and begins with its row's match bytes. -/
def Statement (i : Instr) : Prop :=
  i.wellFormed = true → (encode i).channel = channelOf i ∧ rowMatches (row i) (encode i).bytes = true

theorem frameC (index mode deviceId : Byte) (payload : List Byte) :
     Statement (.frameC index mode deviceId payload) := by
  simp [Statement, encode, commandFrame, channelOf, row, rowMatches, Config.prefixA, Config.prefixB]

theorem frameCWrite (deviceId : Byte) (payload : List Byte) : Statement (.frameCWrite deviceId payload) := by
  simp [Statement, encode, commandFrame, channelOf, row, rowMatches, Config.prefixA, Config.prefixB,
    Config.idxWrite, Config.modeWrite]

theorem frameCRead (index deviceId : Byte) (payload : List Byte) (callback : CallbackHandle) :
     Statement (.frameCRead index deviceId payload callback) := by
  simp [Statement, encode, commandFrame, channelOf, row, rowMatches, Config.prefixA, Config.prefixB, Config.modeRead]

theorem cmdMotorPair (left right : Half) : Statement (.cmdMotorPair left right) := by
  simp [Statement, encode, commandFrame, channelOf, row, rowMatches, Config.prefixA, Config.prefixB,
    Config.idxWrite, Config.modeWrite, Config.devMotorPair, halfBytes]

theorem cmdMotor (port : Byte) (speed : Half) : Statement (.cmdMotor port speed) := by
  simp [Statement, encode, commandFrame, channelOf, row, rowMatches, Config.prefixA, Config.prefixB,
    Config.idxWrite, Config.modeWrite, Config.devMotor, halfBytes]

theorem cmdLed (position red green blue : Byte) : Statement (.cmdLed position red green blue) := by
  simp [Statement, encode, commandFrame, channelOf, row, rowMatches, Config.prefixA, Config.prefixB,
    Config.idxWrite, Config.modeWrite]

theorem cmdTone (pitch duration : Half) : Statement (.cmdTone pitch duration) := by
  simp [Statement, encode, commandFrame, channelOf, row, rowMatches, Config.prefixA, Config.prefixB,
    Config.idxWrite, Config.modeWrite, halfBytes]

theorem cmdReadUltrasonic (index port : Byte) (callback : CallbackHandle) :
     Statement (.cmdReadUltrasonic index port callback) := by
  simp [Statement, encode, commandFrame, channelOf, row, rowMatches, Config.prefixA, Config.prefixB, Config.modeRead]

theorem cmdReadLightness (index port : Byte) (callback : CallbackHandle) :
     Statement (.cmdReadLightness index port callback) := by
  simp [Statement, encode, commandFrame, channelOf, row, rowMatches, Config.prefixA, Config.prefixB, Config.modeRead]

theorem cmdReadLineFollower (index port : Byte) (callback : CallbackHandle) :
     Statement (.cmdReadLineFollower index port callback) := by
  simp [Statement, encode, commandFrame, channelOf, row, rowMatches, Config.prefixA, Config.prefixB, Config.modeRead]

theorem replyByte (index value : Byte) : Statement (.replyByte index value) := by
  simp [Statement, encode, replyFrame, channelOf, row, rowMatches, Config.prefixA, Config.prefixB, Config.tagByte]

theorem replyFloat (index : Byte) (pattern : Word) : Statement (.replyFloat index pattern) := by
  simp [Statement, encode, replyFrame, channelOf, row, rowMatches, Config.prefixA, Config.prefixB, Config.tagFloat]

theorem replyShort (index : Byte) (value : Half) : Statement (.replyShort index value) := by
  simp [Statement, encode, replyFrame, channelOf, row, rowMatches, Config.prefixA, Config.prefixB, Config.tagShort]

theorem replyDouble (index : Byte) (pattern : Word) : Statement (.replyDouble index pattern) := by
  simp [Statement, encode, replyFrame, channelOf, row, rowMatches, Config.prefixA, Config.prefixB, Config.tagDouble]

theorem replyLong (index : Byte) (value : Word) : Statement (.replyLong index value) := by
  simp [Statement, encode, replyFrame, channelOf, row, rowMatches, Config.prefixA, Config.prefixB, Config.tagLong]

theorem replyText (index : Byte) (text : List Byte) : Statement (.replyText index text) := by
  simp [Statement, encode, replyFrame, channelOf, row, rowMatches, Config.prefixA, Config.prefixB, Config.tagText]

theorem ack : Statement (.ack) := fun _ => ⟨rfl, rfl⟩

theorem rxStepAwaitPrefixA (b : Byte) : Statement (.rxStepAwaitPrefixA b) := fun _ => ⟨rfl, rfl⟩

theorem rxStepAwaitPrefixB (b : Byte) : Statement (.rxStepAwaitPrefixB b) := fun _ => ⟨rfl, rfl⟩

theorem rxStepAwaitIndex (b : Byte) : Statement (.rxStepAwaitIndex b) := fun _ => ⟨rfl, rfl⟩

theorem rxStepAwaitDataType (b : Byte) : Statement (.rxStepAwaitDataType b) := fun _ => ⟨rfl, rfl⟩

theorem rxStepAwaitPayload (b : Byte) : Statement (.rxStepAwaitPayload b) := fun _ => ⟨rfl, rfl⟩

theorem rxStepAwaitSuffixA (b : Byte) : Statement (.rxStepAwaitSuffixA b) := fun _ => ⟨rfl, rfl⟩

theorem rxStepAwaitSuffixB (b : Byte) : Statement (.rxStepAwaitSuffixB b) := fun _ => ⟨rfl, rfl⟩

theorem opEncode (index mode deviceId : Byte) (payload : List Byte) :
     Statement (.opEncode index mode deviceId payload) := fun _ => ⟨rfl, rfl⟩

theorem opSplit16 (v : Int) : Statement (.opSplit16 v) := fun _ => ⟨rfl, rfl⟩

theorem opDecode16 (lo hi : Byte) : Statement (.opDecode16 lo hi) := fun _ => ⟨rfl, rfl⟩

theorem opFeed (b : Byte) : Statement (.opFeed b) := fun _ => ⟨rfl, rfl⟩

theorem opRxByte (b : Byte) : Statement (.opRxByte b) := fun _ => ⟨rfl, rfl⟩

theorem opRxChunk (bytes : List Byte) : Statement (.opRxChunk bytes) := fun _ => ⟨rfl, rfl⟩

theorem opDecode (tag : Byte) (payload : List Byte) : Statement (.opDecode tag payload) := fun _ => ⟨rfl, rfl⟩

theorem opIntValue (v : SensorValue) : Statement (.opIntValue v) := fun _ => ⟨rfl, rfl⟩

theorem opFloatValue (v : SensorValue) : Statement (.opFloatValue v) := fun _ => ⟨rfl, rfl⟩

theorem opTextValue (v : SensorValue) : Statement (.opTextValue v) := fun _ => ⟨rfl, rfl⟩

theorem opAllocate (callback : CallbackHandle) : Statement (.opAllocate callback) := fun _ => ⟨rfl, rfl⟩

theorem opResolve (index : Byte) (v : SensorValue) : Statement (.opResolve index v) := fun _ => ⟨rfl, rfl⟩

theorem opDiscardAll : Statement (.opDiscardAll) := fun _ => ⟨rfl, rfl⟩

theorem opIsExpired (entry : Entry) : Statement (.opIsExpired entry) := fun _ => ⟨rfl, rfl⟩

theorem opSendWrite (deviceId : Byte) (payload : List Byte) :
     Statement (.opSendWrite deviceId payload) := fun _ => ⟨rfl, rfl⟩

theorem opSendRead (deviceId : Byte) (payload : List Byte) (callback : CallbackHandle) :
     Statement (.opSendRead deviceId payload callback) := fun _ => ⟨rfl, rfl⟩

theorem opSetMotors (left right : Int) : Statement (.opSetMotors left right) := fun _ => ⟨rfl, rfl⟩

theorem opSetMotor (port : Byte) (speed : Int) : Statement (.opSetMotor port speed) := fun _ => ⟨rfl, rfl⟩

theorem opMoveForward (speed : Int) : Statement (.opMoveForward speed) := fun _ => ⟨rfl, rfl⟩

theorem opMoveBackward (speed : Int) : Statement (.opMoveBackward speed) := fun _ => ⟨rfl, rfl⟩

theorem opTurnLeft (speed : Int) : Statement (.opTurnLeft speed) := fun _ => ⟨rfl, rfl⟩

theorem opTurnRight (speed : Int) : Statement (.opTurnRight speed) := fun _ => ⟨rfl, rfl⟩

theorem opStop : Statement (.opStop) := fun _ => ⟨rfl, rfl⟩

theorem opSetLED (position red green blue : Byte) :
     Statement (.opSetLED position red green blue) := fun _ => ⟨rfl, rfl⟩

theorem opPlayTone (pitch duration : Int) : Statement (.opPlayTone pitch duration) := fun _ => ⟨rfl, rfl⟩

theorem opReadUltrasonic (port : Byte) (callback : CallbackHandle) :
     Statement (.opReadUltrasonic port callback) := fun _ => ⟨rfl, rfl⟩

theorem opReadLightness (port : Byte) (callback : CallbackHandle) :
     Statement (.opReadLightness port callback) := fun _ => ⟨rfl, rfl⟩

theorem opReadLineFollower (port : Byte) (callback : CallbackHandle) :
     Statement (.opReadLineFollower port callback) := fun _ => ⟨rfl, rfl⟩

theorem opOnConnect : Statement (.opOnConnect) := fun _ => ⟨rfl, rfl⟩

theorem opOnDisconnect : Statement (.opOnDisconnect) := fun _ => ⟨rfl, rfl⟩

theorem opReset : Statement (.opReset) := fun _ => ⟨rfl, rfl⟩

end Sys2Proof.Laws.TableRow
end

