-- ==== Sys2Proof/Laws/Step.lean ====
section
/-! SUPPORT. The step, said once: it holds, refuses an undecodable transaction, or runs its instruction. -/

namespace Sys2Proof.Machine

theorem step_cases (s : State) :
    (s.pending = [] ∧ step s = .next s) ∨
    (∃ t rest e, s.pending = t :: rest ∧ decode t = .error e ∧ step s = .refused (.undecodable e)) ∨
    (∃ t rest i, s.pending = t :: rest ∧ decode t = .ok i ∧ step s = exec i (s.setPending rest)) := by
  cases hp : s.pending with
  | nil => exact .inl ⟨rfl, by simp [step, fetch, hp]⟩
  | cons t rest =>
    cases hd : decode t with
    | error e => exact .inr (.inl ⟨t, rest, e, rfl, hd, by simp [step, fetch, hp, hd]⟩)
    | ok i => exact .inr (.inr ⟨t, rest, i, rfl, hd, by simp [step, fetch, hp, hd]⟩)

/-- The transaction put in front is the one the next step meets. -/
theorem step_deliverNext {t : Transaction} {i : Instr} (h : decode t = .ok i) (s : State) :
    step (deliverNext t s) = exec i s := by
  simp [step, fetch, deliverNext, State.setPending, h]

/-- A table word, fetched, is the instruction the decoder reads from it. -/
theorem step_withFetchWord {nbits w : Nat} {i : Instr} (h : decodeTableWord nbits w = some i) (s : State) :
    step (s.withFetchWord nbits w) = exec i s := by
  refine step_deliverNext ?_ s
  simp only [decodeTableWord] at h
  split at h
  next j hj => cases h; exact hj
  next => cases h

end Sys2Proof.Machine
end

