-- ==== Sys2Proof/Tests/Slice0.lean ====
section
/-! SUPPORT. Our own tests: ill-formed terms that WellFormed refuses, a word for every constructor, one-step tests
from the vectors of 95_test_vectors (their ids are named), and a witness for the hypotheses of every obligation. -/

namespace Sys2Proof.Tests

open Sys2Proof Sys2Proof.Machine

/-! ## WellFormed refuses -/

theorem test_wf_int_too_big : (Instr.opSplit16 2147483648).wellFormed = false := by decide
theorem test_wf_int_too_small : (Instr.opSetMotors 0 (-2147483649)).wellFormed = false := by decide
theorem test_wf_int_port : (Instr.opSetMotor 9 2147483648).wellFormed = false := by decide
theorem test_wf_int_tone : (Instr.opPlayTone 2147483648 0).wellFormed = false := by decide
theorem test_wf_handle : (Instr.opAllocate ⟨4294967296⟩).wellFormed = false := by decide
theorem test_wf_handle_read : (Instr.opReadLightness 1 ⟨4294967296⟩).wellFormed = false := by decide
theorem test_wf_bytes : (Instr.opRxChunk (List.replicate 65536 0)).wellFormed = false := by
  rw [Instr.wellFormed, bytesFit, List.length_replicate]; decide
theorem test_wf_value : (Instr.opTextValue (.text (List.replicate 256 0x41))).wellFormed = false := by
  rw [Instr.wellFormed, valueFits, List.length_replicate]; decide
theorem test_wf_entry_time : (Instr.opIsExpired ⟨2, 4294967296, ⟨0⟩⟩).wellFormed = false := by decide
theorem test_wf_entry_handle : (Instr.opIsExpired ⟨2, 0, ⟨4294967296⟩⟩).wellFormed = false := by decide
theorem test_wf_frame_payload : (Instr.frameC 0x7F 0x02 0x33 (List.replicate 253 0)).wellFormed = false := by
  rw [Instr.wellFormed, payloadFitsFrame, List.length_replicate]; decide
theorem test_wf_frame_is_write : (Instr.frameC 1 0x02 0x33 []).wellFormed = false := by decide
theorem test_wf_frame_is_read : (Instr.frameC 254 0x01 0x33 []).wellFormed = false := by decide
theorem test_wf_write_is_motor_pair : (Instr.frameCWrite 0x05 [0, 0, 0, 0]).wellFormed = false := by decide
theorem test_wf_write_is_motor : (Instr.frameCWrite 0x0A [9, 0, 0]).wellFormed = false := by decide
theorem test_wf_write_is_led : (Instr.frameCWrite Config.devLed [Config.ledSubcmd, 0, 0, 0, 0]).wellFormed = false := by
  simp [Instr.wellFormed, isFacadeWrite]
theorem test_wf_write_is_tone : (Instr.frameCWrite Config.devBuzzer [0, 0, 0, 0]).wellFormed = false := by
  simp [Instr.wellFormed, isFacadeWrite]
theorem test_wf_read_index : (Instr.frameCRead 255 0x33 [] ⟨0⟩).wellFormed = false := by decide
theorem test_wf_read_handle : (Instr.frameCRead 2 0x33 [] ⟨4294967296⟩).wellFormed = false := by decide
theorem test_wf_read_is_ultrasonic : (Instr.frameCRead 2 Config.devUltrasonic [3] ⟨0⟩).wellFormed = false := by
  simp [Instr.wellFormed, isFacadeRead]
theorem test_wf_read_is_lightness : (Instr.frameCRead 2 Config.devLight [3] ⟨0⟩).wellFormed = false := by
  simp [Instr.wellFormed, isFacadeRead]
theorem test_wf_read_is_line : (Instr.frameCRead 2 Config.devLine [3] ⟨0⟩).wellFormed = false := by
  simp [Instr.wellFormed, isFacadeRead]
theorem test_wf_ultrasonic_index : (Instr.cmdReadUltrasonic 1 3 ⟨0⟩).wellFormed = false := by decide
theorem test_wf_text : (Instr.replyText 2 (List.replicate 256 0x41)).wellFormed = false := by
  rw [Instr.wellFormed, List.length_replicate]; decide
/-- The rows that an OPEN device id could shadow (assumption log 17). -/
theorem test_wf_tone_shadowed (h : Config.devBuzzer = Config.devMotorPair) :
    (Instr.cmdTone 0 0).wellFormed = false := by simp [Instr.wellFormed, h]
theorem test_wf_lightness_shadowed (h : Config.devLight = Config.devUltrasonic) :
    (Instr.cmdReadLightness 2 0 ⟨0⟩).wellFormed = false := by simp [Instr.wellFormed, h]
theorem test_wf_line_shadowed (h : Config.devLine = Config.devLight) :
    (Instr.cmdReadLineFollower 2 0 ⟨0⟩).wellFormed = false := by simp [Instr.wellFormed, h]

/-! ## Every constructor's word, written out from its encoding -/

/-! Format C: R81, R91, R103. The read rows carry the handle 7 after the frame (assumption log 16). -/

theorem test_decode_frameC : decode ⟨.command, [0xFF, 0x55, 0x03, 0x7F, 0x02, 0x33]⟩
    = .ok (.frameC 0x7F 0x02 0x33 []) := by decide
theorem test_decode_frameCWrite : decode ⟨.command, [0xFF, 0x55, 0x05, 0x01, 0x02, 0x33, 0xAA, 0xBB]⟩
    = .ok (.frameCWrite 0x33 [0xAA, 0xBB]) := by decide
theorem test_decode_frameCRead :
    decode ⟨.command, [0xFF, 0x55, 0x05, 0xFE, 0x01, 0x33, 0xAA, 0xBB, 0x07, 0x00, 0x00, 0x00]⟩
      = .ok (.frameCRead 0xFE 0x33 [0xAA, 0xBB] ⟨7⟩) := by decide
theorem test_decode_cmdMotorPair : decode ⟨.command, [0xFF, 0x55, 0x07, 0x01, 0x02, 0x05, 0xF6, 0xFF, 0x0A, 0x00]⟩
    = .ok (.cmdMotorPair 0xFFF6 0x000A) := by decide
theorem test_decode_cmdMotor : decode ⟨.command, [0xFF, 0x55, 0x06, 0x01, 0x02, 0x0A, 0x09, 0x01, 0xFF]⟩
    = .ok (.cmdMotor 0x09 0xFF01) := by decide
theorem test_decode_cmdLed : decode ⟨.command, [0xFF, 0x55, 0x08, 0x01, 0x02, Config.devLed, Config.ledSubcmd,
    0x00, 0xFF, 0x10, 0x20]⟩ = .ok (.cmdLed 0x00 0xFF 0x10 0x20) := by
  simp [decode, decodeCommand, getCounted, takeTxSuffix, decodeWriteFrame, Except.bind, finish, Config.prefixA,
    Config.prefixB, Config.idxWrite, Config.modeWrite, Config.txSuffix]
theorem test_decode_cmdTone (h : Config.devBuzzer ≠ Config.devMotorPair) :
    decode ⟨.command, [0xFF, 0x55, 0x07, 0x01, 0x02, Config.devBuzzer, 0xB8, 0x01, 0xE8, 0x03]⟩
      = .ok (.cmdTone 440 1000) := by
  simp [decode, decodeCommand, getCounted, takeTxSuffix, decodeWriteFrame, Except.bind, finish, Config.prefixA,
    Config.prefixB, Config.idxWrite, Config.modeWrite, Config.txSuffix, h, half]
theorem test_decode_cmdReadUltrasonic : decode ⟨.command, [0xFF, 0x55, 0x04, 0x02, 0x01, Config.devUltrasonic, 0x03,
    0x07, 0x00, 0x00, 0x00]⟩ = .ok (.cmdReadUltrasonic 2 3 ⟨7⟩) := by
  simp [decode, decodeCommand, getCounted, takeTxSuffix, decodeReadFrame, Except.bind, finish, Config.prefixA,
    Config.prefixB, Config.idxWrite, Config.modeWrite, Config.modeRead, Config.txSuffix, allocatable, Config.idxMin,
    Config.idxMax, orBadOperands, getHandle, getWord, word]
theorem test_decode_cmdReadLightness (h : Config.devLight ≠ Config.devUltrasonic) :
    decode ⟨.command, [0xFF, 0x55, 0x04, 0x03, 0x01, Config.devLight, 0x06, 0x07, 0x00, 0x00, 0x00]⟩
      = .ok (.cmdReadLightness 3 6 ⟨7⟩) := by
  simp [decode, decodeCommand, getCounted, takeTxSuffix, decodeReadFrame, Except.bind, finish, Config.prefixA,
    Config.prefixB, Config.idxWrite, Config.modeWrite, Config.modeRead, Config.txSuffix, allocatable, Config.idxMin,
    Config.idxMax, orBadOperands, getHandle, getWord, word, h]
theorem test_decode_cmdReadLineFollower (h : Config.devLine ≠ Config.devUltrasonic)
    (h' : Config.devLine ≠ Config.devLight) :
    decode ⟨.command, [0xFF, 0x55, 0x04, 0x04, 0x01, Config.devLine, 0x02, 0x07, 0x00, 0x00, 0x00]⟩
      = .ok (.cmdReadLineFollower 4 2 ⟨7⟩) := by
  simp [decode, decodeCommand, getCounted, takeTxSuffix, decodeReadFrame, Except.bind, finish, Config.prefixA,
    Config.prefixB, Config.idxWrite, Config.modeWrite, Config.modeRead, Config.txSuffix, allocatable, Config.idxMin,
    Config.idxMax, orBadOperands, getHandle, getWord, word, h, h']
/-- A length byte below 3 is no command frame (R82). -/
theorem test_decode_short_length : decode ⟨.command, [0xFF, 0x55, 0x02, 0x01, 0x02, 0x33]⟩
    = .error .notACommandFrame := by decide
theorem test_decode_bad_pair : decode ⟨.command, [0xFF, 0x54, 0x03, 0x01, 0x02, 0x33]⟩
    = .error .notACommandFrame := by decide

/-! Formats R and A: R84 to R89 (vectors V20 to V30). -/

theorem test_decode_replyByte : decode ⟨.inbound, [0xFF, 0x55, 0x07, 0x01, 0xC8, 0x0D, 0x0A]⟩
    = .ok (.replyByte 0x07 0xC8) := by decide
theorem test_decode_replyFloat : decode ⟨.inbound, [0xFF, 0x55, 0x02, 0x02, 0x35, 0xC2, 0x94, 0x42, 0x0D, 0x0A]⟩
    = .ok (.replyFloat 0x02 0x4294C235) := by decide
theorem test_decode_replyShort : decode ⟨.inbound, [0xFF, 0x55, 0x07, 0x03, 0x34, 0x12, 0x0D, 0x0A]⟩
    = .ok (.replyShort 0x07 0x1234) := by decide
theorem test_decode_replyDouble : decode ⟨.inbound, [0xFF, 0x55, 0x07, 0x05, 0x00, 0x00, 0x80, 0x3F, 0x0D, 0x0A]⟩
    = .ok (.replyDouble 0x07 0x3F800000) := by decide
theorem test_decode_replyLong : decode ⟨.inbound, [0xFF, 0x55, 0x07, 0x06, 0x78, 0x56, 0x34, 0xF2, 0x0D, 0x0A]⟩
    = .ok (.replyLong 0x07 0xF2345678) := by decide
theorem test_decode_replyText : decode ⟨.inbound, [0xFF, 0x55, 0x05, 0x04, 0x03, 0x61, 0x62, 0x63, 0x0D, 0x0A]⟩
    = .ok (.replyText 0x05 [0x61, 0x62, 0x63]) := by decide
theorem test_decode_replyText_empty : decode ⟨.inbound, [0xFF, 0x55, 0x05, 0x04, 0x00, 0x0D, 0x0A]⟩
    = .ok (.replyText 0x05 []) := by decide
theorem test_decode_ack : decode ⟨.inbound, [0xFF, 0x55, 0x0D, 0x0A]⟩ = .ok .ack := by decide
/-- V30: an ack and a frame after it are a chunk; V36: so is a frame with its suffix swapped. -/
theorem test_decode_ack_and_frame : decode ⟨.inbound, [0xFF, 0x55, 0x0D, 0x0A, 0xFF, 0x55, 0x02, 0x01, 0x07, 0x0D, 0x0A]⟩
    = .ok (.opRxChunk [0xFF, 0x55, 0x0D, 0x0A, 0xFF, 0x55, 0x02, 0x01, 0x07, 0x0D, 0x0A]) := by decide
theorem test_decode_bad_suffix : decode ⟨.inbound, [0xFF, 0x55, 0x02, 0x01, 0x07, 0x0A, 0x0D]⟩
    = .ok (.opRxChunk [0xFF, 0x55, 0x02, 0x01, 0x07, 0x0A, 0x0D]) := by decide

/-! Format S: R21. -/

theorem test_decode_rxStepAwaitPrefixA : decode ⟨.rxStep, [0x00, 0xFF]⟩ = .ok (.rxStepAwaitPrefixA 0xFF) := by decide
theorem test_decode_rxStepAwaitPrefixB : decode ⟨.rxStep, [0x01, 0x55]⟩ = .ok (.rxStepAwaitPrefixB 0x55) := by decide
theorem test_decode_rxStepAwaitIndex : decode ⟨.rxStep, [0x02, 0x09]⟩ = .ok (.rxStepAwaitIndex 0x09) := by decide
theorem test_decode_rxStepAwaitDataType : decode ⟨.rxStep, [0x03, 0x04]⟩ = .ok (.rxStepAwaitDataType 0x04) := by decide
theorem test_decode_rxStepAwaitPayload : decode ⟨.rxStep, [0x04, 0x61]⟩ = .ok (.rxStepAwaitPayload 0x61) := by decide
theorem test_decode_rxStepAwaitSuffixA : decode ⟨.rxStep, [0x05, 0x0D]⟩ = .ok (.rxStepAwaitSuffixA 0x0D) := by decide
theorem test_decode_rxStepAwaitSuffixB : decode ⟨.rxStep, [0x06, 0x0A]⟩ = .ok (.rxStepAwaitSuffixB 0x0A) := by decide
theorem test_decode_rxStep_code7 : decode ⟨.rxStep, [0x07, 0x00]⟩ = .error .badRxStep := by decide

/-! Format OP: selectors of R100, operands of assumption log 2. -/

theorem test_decode_opEncode : decode ⟨.call, [0x00, 0x01, 0x02, 0x05, 0x02, 0x00, 0xF6, 0xFF]⟩
    = .ok (.opEncode 0x01 0x02 0x05 [0xF6, 0xFF]) := by decide
theorem test_decode_opSplit16 : decode ⟨.call, [0x01, 0xF6, 0xFF, 0xFF, 0xFF]⟩ = .ok (.opSplit16 (-10)) := by decide
theorem test_decode_opDecode16 : decode ⟨.call, [0x02, 0xF6, 0xFF]⟩ = .ok (.opDecode16 0xF6 0xFF) := by decide
theorem test_decode_opFeed : decode ⟨.call, [0x03, 0x55]⟩ = .ok (.opFeed 0x55) := by decide
theorem test_decode_opRxByte : decode ⟨.call, [0x04, 0x55]⟩ = .ok (.opRxByte 0x55) := by decide
theorem test_decode_opRxChunk : decode ⟨.call, [0x05, 0x02, 0x00, 0xFF, 0x55]⟩ = .ok (.opRxChunk [0xFF, 0x55]) := by
  decide
theorem test_decode_opDecode : decode ⟨.call, [0x06, 0x03, 0x02, 0x00, 0x34, 0x12]⟩
    = .ok (.opDecode 0x03 [0x34, 0x12]) := by decide
theorem test_decode_opIntValue : decode ⟨.call, [0x07, 0x00, 0xC8, 0x00, 0x00, 0x00]⟩
    = .ok (.opIntValue (.int 200)) := by decide
theorem test_decode_opFloatValue : decode ⟨.call, [0x08, 0x01, 0x00, 0x00, 0x80, 0x3F]⟩
    = .ok (.opFloatValue (.float 0x3F800000)) := by decide
theorem test_decode_opTextValue : decode ⟨.call, [0x09, 0x02, 0x02, 0x4F, 0x4B]⟩
    = .ok (.opTextValue (.text [0x4F, 0x4B])) := by decide
theorem test_decode_opAllocate : decode ⟨.call, [0x0A, 0x07, 0x01, 0x00, 0x00]⟩ = .ok (.opAllocate ⟨263⟩) := by decide
theorem test_decode_opResolve : decode ⟨.call, [0x0B, 0x02, 0x00, 0x07, 0x00, 0x00, 0x00]⟩
    = .ok (.opResolve 0x02 (.int 7)) := by decide
theorem test_decode_opDiscardAll : decode ⟨.call, [0x0C]⟩ = .ok .opDiscardAll := by decide
theorem test_decode_opIsExpired : decode ⟨.call, [0x0D, 0x02, 0x05, 0x00, 0x00, 0x00, 0x07, 0x00, 0x00, 0x00]⟩
    = .ok (.opIsExpired ⟨2, 5, ⟨7⟩⟩) := by decide
theorem test_decode_opSendWrite : decode ⟨.call, [0x0E, 0x05, 0x01, 0x00, 0xF6]⟩ = .ok (.opSendWrite 0x05 [0xF6]) := by
  decide
theorem test_decode_opSendRead : decode ⟨.call, [0x0F, 0x01, 0x01, 0x00, 0x03, 0x07, 0x00, 0x00, 0x00]⟩
    = .ok (.opSendRead 0x01 [0x03] ⟨7⟩) := by decide
theorem test_decode_opSetMotors : decode ⟨.call, [0x10, 0xF6, 0xFF, 0xFF, 0xFF, 0x0A, 0x00, 0x00, 0x00]⟩
    = .ok (.opSetMotors (-10) 10) := by decide
theorem test_decode_opSetMotor : decode ⟨.call, [0x11, 0x09, 0x0A, 0x00, 0x00, 0x00]⟩ = .ok (.opSetMotor 0x09 10) := by
  decide
theorem test_decode_opMoveForward : decode ⟨.call, [0x12, 0x0A, 0x00, 0x00, 0x00]⟩ = .ok (.opMoveForward 10) := by
  decide
theorem test_decode_opMoveBackward : decode ⟨.call, [0x13, 0x0A, 0x00, 0x00, 0x00]⟩ = .ok (.opMoveBackward 10) := by
  decide
theorem test_decode_opTurnLeft : decode ⟨.call, [0x14, 0x0A, 0x00, 0x00, 0x00]⟩ = .ok (.opTurnLeft 10) := by decide
theorem test_decode_opTurnRight : decode ⟨.call, [0x15, 0x0A, 0x00, 0x00, 0x00]⟩ = .ok (.opTurnRight 10) := by decide
theorem test_decode_opStop : decode ⟨.call, [0x16]⟩ = .ok .opStop := by decide
theorem test_decode_opSetLED : decode ⟨.call, [0x17, 0x01, 0xFF, 0x10, 0x20]⟩
    = .ok (.opSetLED 0x01 0xFF 0x10 0x20) := by decide
theorem test_decode_opPlayTone : decode ⟨.call, [0x18, 0xB8, 0x01, 0x00, 0x00, 0xE8, 0x03, 0x00, 0x00]⟩
    = .ok (.opPlayTone 440 1000) := by decide
theorem test_decode_opReadUltrasonic : decode ⟨.call, [0x19, 0x03, 0x07, 0x00, 0x00, 0x00]⟩
    = .ok (.opReadUltrasonic 0x03 ⟨7⟩) := by decide
theorem test_decode_opReadLightness : decode ⟨.call, [0x1A, 0x06, 0x07, 0x00, 0x00, 0x00]⟩
    = .ok (.opReadLightness 0x06 ⟨7⟩) := by decide
theorem test_decode_opReadLineFollower : decode ⟨.call, [0x1B, 0x02, 0x07, 0x00, 0x00, 0x00]⟩
    = .ok (.opReadLineFollower 0x02 ⟨7⟩) := by decide
theorem test_decode_opOnConnect : decode ⟨.call, [0x1C]⟩ = .ok .opOnConnect := by decide
theorem test_decode_opOnDisconnect : decode ⟨.call, [0x1D]⟩ = .ok .opOnDisconnect := by decide
theorem test_decode_opReset : decode ⟨.call, [0x1E]⟩ = .ok .opReset := by decide
theorem test_decode_unknown_selector : decode ⟨.call, [0x1F]⟩ = .error (.unknownSelector 0x1F) := by decide
theorem test_decode_missing_operand : decode ⟨.call, [0x02, 0xF6]⟩ = .error .badOperands := by decide
theorem test_decode_bad_variant : decode ⟨.call, [0x07, 0x03, 0x00, 0x00, 0x00, 0x00]⟩ = .error .badOperands := by decide
theorem test_decode_trailing : decode ⟨.call, [0x16, 0x01]⟩ = .error .trailingBytes := by decide

/-! The table's words (assumption log 3). -/

theorem test_table_ack : decodeTableWord 32 0xFF550D0A = some .ack := by decide
theorem test_table_motor_pair : decodeTableWord 48 0xFF5507010205 = some (.cmdMotorPair 0 0) := by decide
theorem test_table_motor_pair_low : decodeTableWord 80 0x000AFFF60502010755FF
    = some (.cmdMotorPair 0xFFF6 0x000A) := by decide
theorem test_table_reply_byte : decodeTableWord 56 0xFF550701C80D0A = some (.replyByte 7 0xC8) := by decide
theorem test_table_stop : decodeTableWord 8 0x16 = some .opStop := by decide
theorem test_table_allocate : decodeTableWord 8 0x0A = some (.opAllocate ⟨0⟩) := by decide
/-- The next step of the fetched word is the instruction's own, from reset: V29 leaves 0x0D in RX_INDEX. -/
theorem test_step_withFetchWord : step (State.reset.withFetchWord 32 0xFF550D0A)
    = .next { State.reset with rxIndex := 0x0D } := by rfl

/-! ## One step each -/

/-- A state in the given receive state, the rest as after reset. -/
def inState (r : RxState) : State := { State.reset with rxs := r }

/-- The value handed back. -/
def retOf : Result → Option CmdResult
  | .next s => some s.ret
  | .fault _ => none
  | .refused _ => none

/-- The frames on TX. -/
def txOf : Result → Option (List (List Byte))
  | .next s => some s.tx
  | .fault _ => none
  | .refused _ => none

/-- The emissions on CB. -/
def cbOf : Result → Option (List (CallbackHandle × SensorValue))
  | .next s => some s.cb
  | .fault _ => none
  | .refused _ => none

/-- RXS, CURSOR and the live keys. -/
def regsOf : Result → Option (RxState × Byte × List Byte)
  | .next s => some (s.rxs, s.cursor, s.tbl.map (·.1))
  | .fault _ => none
  | .refused _ => none

/-- Handle 7 pending at index 2, CURSOR 3 (the end state of V70). -/
def waiting : State := { State.reset with tbl := [(2, ⟨2, 0, ⟨7⟩⟩)], cursor := 3 }

/-! Frame codec (V1, V3, V6, V8 to V13). -/

theorem test_encode : retOf (exec (.opEncode 0x01 0x02 0x05 [0xF6, 0xFF, 0x0A, 0x00]) State.reset)
    = some (.bytes [0xFF, 0x55, 0x07, 0x01, 0x02, 0x05, 0xF6, 0xFF, 0x0A, 0x00]) := by decide
theorem test_encode_refused : exec (.opEncode 2 1 1 (List.replicate 253 0)) State.reset = .refused .payloadTooLong := by
  simp only [exec, execEncode]; rw [encodeFrame_none (by rw [List.length_replicate]; decide)]
theorem test_split16_min : retOf (exec (.opSplit16 (-32768)) State.reset) = some (.pair 0x00 0x80) := by decide
theorem test_split16_tone : retOf (exec (.opSplit16 65535) State.reset) = some (.pair 0xFF 0xFF) := by decide
theorem test_decode16_min : retOf (exec (.opDecode16 0x00 0x80) State.reset) = some (.int (-32768)) := by decide
theorem test_decode16_max : retOf (exec (.opDecode16 0xFF 0x7F) State.reset) = some (.int 32767) := by decide

/-! Receive state machine (R141 to R147, V20 to V43). -/

theorem test_prefixA_stay : exec (.rxStepAwaitPrefixA 0x55) State.reset
    = .next { State.reset with ret := .frame none } := by rfl
theorem test_prefixB_second_ff : exec (.rxStepAwaitPrefixB 0xFF) (inState .awaitPrefixB)
    = .next { State.reset with ret := .frame none } := by rfl
theorem test_index_any : exec (.rxStepAwaitIndex 0xFF) (inState .awaitIndex)
    = .next { inState .awaitDataType with rxIndex := 0xFF, ret := .frame none } := by rfl
theorem test_tag_text : exec (.rxStepAwaitDataType 0x04) { inState .awaitDataType with pbuf := [1] }
    = .next { inState .awaitPayload with rxType := 4, rxRemaining := 1, rxLenPending := true, ret := .frame none } := by
  rfl
theorem test_tag_unknown : exec (.rxStepAwaitDataType 0x07) { inState .awaitDataType with pbuf := [1] }
    = .next { State.reset with pbuf := [1], ret := .frame none } := by rfl
theorem test_payload_length_zero :
    exec (.rxStepAwaitPayload 0x00) { inState .awaitPayload with rxRemaining := 1, rxLenPending := true }
      = .next { inState .awaitSuffixA with ret := .frame none } := by rfl
theorem test_payload_last : exec (.rxStepAwaitPayload 0xFF) { inState .awaitPayload with rxRemaining := 1, pbuf := [1] }
    = .next { inState .awaitSuffixA with pbuf := [1, 0xFF], ret := .frame none } := by rfl
theorem test_suffixA_swapped : exec (.rxStepAwaitSuffixA 0x0A) (inState .awaitSuffixA)
    = .next { State.reset with ret := .frame none } := by rfl
theorem test_suffixB_emits : exec (.rxStepAwaitSuffixB 0x0A)
    { inState .awaitSuffixB with rxIndex := 2, rxType := 2, pbuf := [0x35, 0xC2, 0x94, 0x42] }
    = .next { State.reset with rxIndex := 2, rxType := 2, pbuf := [0x35, 0xC2, 0x94, 0x42],
                               ret := .frame (some ⟨2, 2, [0x35, 0xC2, 0x94, 0x42]⟩) } := by rfl
theorem test_step_not_selected : exec (.rxStepAwaitSuffixB 0x0A) State.reset = .refused .stepNotSelected := by rfl
theorem test_feed_bad_suffix : retOf (exec (.opFeed 0x0B) { inState .awaitSuffixB with rxIndex := 2, rxType := 2 })
    = some (.frame none) := by decide
theorem test_rxByte_hit : cbOf (exec (.opRxByte 0x0A)
    { waiting with rxs := .awaitSuffixB, rxIndex := 2, rxType := 1, pbuf := [0xC8] }) = some [(⟨7⟩, .int 200)] := by
  decide
theorem test_rxByte_miss : cbOf (exec (.opRxByte 0x0A)
    { waiting with rxs := .awaitSuffixB, rxIndex := 9, rxType := 1, pbuf := [0xC8] }) = some [] := by decide
/-- V34 and V32. -/
theorem test_chunk_consumed_ff : cbOf (exec (.opRxChunk [0xFF, 0xFF, 0x55, 0x02, 0x01, 0x07, 0x0D, 0x0A]) waiting)
    = some [] := by decide
theorem test_chunk_noise : cbOf (exec (.opRxChunk [0x00, 0x12, 0xFF, 0x55, 0x02, 0x01, 0x2A, 0x0D, 0x0A]) waiting)
    = some [(⟨7⟩, .int 42)] := by decide

/-! Reply frames and the ack (V20 to V30, P2 step 4). -/

theorem test_replyByte : cbOf (exec (.replyByte 2 0xFF) waiting) = some [(⟨7⟩, .int 255)] := by decide
theorem test_replyFloat : cbOf (exec (.replyFloat 2 0x4294C235) waiting) = some [(⟨7⟩, .float 0x4294C235)] := by decide
theorem test_replyFloat_removes : regsOf (exec (.replyFloat 2 0x4294C235) waiting) = some (.awaitPrefixA, 3, []) := by
  decide
theorem test_replyShort : cbOf (exec (.replyShort 2 0xFFFF) waiting) = some [(⟨7⟩, .int 65535)] := by decide
theorem test_replyDouble : cbOf (exec (.replyDouble 2 0x3F800000) waiting) = some [(⟨7⟩, .float 0x3F800000)] := by decide
theorem test_replyLong : cbOf (exec (.replyLong 2 0xF2345678) waiting) = some [(⟨7⟩, .int 4063516280)] := by decide
theorem test_replyText : cbOf (exec (.replyText 2 [0x4F, 0x4B]) waiting) = some [(⟨7⟩, .text [0x4F, 0x4B])] := by decide
theorem test_replyText_miss : cbOf (exec (.replyText 3 []) waiting) = some [] := by decide
theorem test_ack_keeps_table : regsOf (exec .ack { waiting with tbl := [(0x0D, ⟨0x0D, 0, ⟨7⟩⟩)] })
    = some (.awaitPrefixA, 3, [0x0D]) := by decide
/-- P5 step 6: a frame met inside a payload is taken as that payload. -/
theorem test_reply_mid_frame : cbOf (exec (.replyByte 2 0x2A)
    { waiting with rxs := .awaitPayload, rxType := 6, rxRemaining := 2, pbuf := [0x11, 0x22] }) = some [] := by decide

/-! Payload decoder and accessors (V50 to V67). -/

theorem test_decode_short_unsigned : retOf (exec (.opDecode 0x03 [0xFF, 0xFF]) State.reset)
    = some (.value (.int 65535)) := by decide
theorem test_decode_outside : exec (.opDecode 0x02 [0, 0]) State.reset = .refused .decodeOutOfDomain := by rfl
theorem test_intValue_float : retOf (exec (.opIntValue (.float 0x4294C235)) State.reset) = some (.int 0) := by decide
theorem test_intValue_long : retOf (exec (.opIntValue (.int 0xF2345678)) State.reset) = some (.int 4063516280) := by
  decide
theorem test_floatValue_int : retOf (exec (.opFloatValue (.int 200)) State.reset) = some (.pattern 0) := by decide
theorem test_floatValue_float : retOf (exec (.opFloatValue (.float 0x80000000)) State.reset)
    = some (.pattern 0x80000000) := by decide
theorem test_textValue_text : retOf (exec (.opTextValue (.text [0x61])) State.reset) = some (.bytes [0x61]) := by decide
theorem test_textValue_int : retOf (exec (.opTextValue (.int 7)) State.reset) = some (.bytes []) := by decide

/-! Float patterns and UTF-8 (R185, R187; assumption logs 23 and 24). -/

theorem test_float_fields : (floatSign 0x80000000, floatExponent 0x3F800000, floatFraction 0x4294C235)
    = (true, 127, 0x14C235) := by decide
theorem test_utf8 : utf8Decode [0xC3, 0xA9] = [0xE9] := by decide
theorem test_utf8_three_and_four : utf8Decode [0xE2, 0x82, 0xAC, 0xF0, 0x9F, 0x99, 0x82] = [0x20AC, 0x1F642] := by decide
theorem test_utf8_overlong : utf8CodePoints [0xC0, 0x80] = none := by decide

/-! Correlation table (V70 to V77). -/

theorem test_allocate_wraps : regsOf (exec (.opAllocate ⟨7⟩) { State.reset with cursor := 254 })
    = some (.awaitPrefixA, 2, [254]) := by decide
theorem test_allocate_clobbers : regsOf (exec (.opAllocate ⟨8⟩) { waiting with cursor := 2 })
    = some (.awaitPrefixA, 3, [2]) := by decide
theorem test_resolve_hit : exec (.opResolve 2 (.int 7)) waiting
    = .next { State.reset with cursor := 3, cb := [(⟨7⟩, .int 7)], ret := .bool true } := by rfl
theorem test_resolve_miss : exec (.opResolve 1 (.int 7)) waiting = .next { waiting with ret := .bool false } := by rfl
theorem test_discardAll : exec .opDiscardAll waiting = .next { State.reset with cursor := 3 } := by rfl
theorem test_isExpired : retOf (exec (.opIsExpired ⟨2, 0, ⟨7⟩⟩) waiting) = some (.bool false) := by decide

/-! Facade and command frames (V80 to V93). -/

theorem test_sendWrite : txOf (exec (.opSendWrite 0x05 [0xF6, 0xFF, 0x0A, 0x00]) State.reset)
    = some [[0xFF, 0x55, 0x07, 0x01, 0x02, 0x05, 0xF6, 0xFF, 0x0A, 0x00]] := by decide
theorem test_sendRead_frame : txOf (exec (.opSendRead 0x11 [0x02] ⟨8⟩) waiting)
    = some [[0xFF, 0x55, 0x04, 0x03, 0x01, 0x11, 0x02]] := by decide
theorem test_sendRead_entry : regsOf (exec (.opSendRead 0x11 [0x02] ⟨8⟩) waiting)
    = some (.awaitPrefixA, 4, [2, 3]) := by decide
theorem test_setMotors : txOf (exec (.opSetMotors (-10) 10) State.reset)
    = some [[0xFF, 0x55, 0x07, 0x01, 0x02, 0x05, 0xF6, 0xFF, 0x0A, 0x00]] := by decide
theorem test_setMotors_refused : exec (.opSetMotors 0 32768) State.reset = .refused .operandOutOfDomain := by rfl
theorem test_setMotor : txOf (exec (.opSetMotor 0x09 (-255)) State.reset)
    = some [[0xFF, 0x55, 0x06, 0x01, 0x02, 0x0A, 0x09, 0x01, 0xFF]] := by decide
theorem test_moveForward : txOf (exec (.opMoveForward 32767) State.reset)
    = some [[0xFF, 0x55, 0x07, 0x01, 0x02, 0x05, 0x01, 0x80, 0xFF, 0x7F]] := by decide
theorem test_moveForward_refused : exec (.opMoveForward (-32768)) State.reset = .refused .operandOutOfDomain := by rfl
theorem test_moveBackward : txOf (exec (.opMoveBackward 10) State.reset)
    = some [[0xFF, 0x55, 0x07, 0x01, 0x02, 0x05, 0x0A, 0x00, 0xF6, 0xFF]] := by decide
theorem test_turnLeft (h : Config.turnLeftSign = 1) : txOf (exec (.opTurnLeft 10) State.reset)
    = some [[0xFF, 0x55, 0x07, 0x01, 0x02, 0x05, 0x0A, 0x00, 0x0A, 0x00]] := by
  simp only [exec, execTurnLeft, h]; decide
theorem test_turnRight (h : Config.turnLeftSign = 1) : txOf (exec (.opTurnRight 10) State.reset)
    = some [[0xFF, 0x55, 0x07, 0x01, 0x02, 0x05, 0xF6, 0xFF, 0xF6, 0xFF]] := by
  simp only [exec, execTurnRight, h]; decide
theorem test_stop : txOf (exec .opStop State.reset)
    = some [[0xFF, 0x55, 0x07, 0x01, 0x02, 0x05, 0x00, 0x00, 0x00, 0x00]] := by decide
theorem test_setLED : txOf (exec (.opSetLED 0 255 0 0) State.reset)
    = some [[0xFF, 0x55, 0x08, 0x01, 0x02, Config.devLed, Config.ledSubcmd, 0x00, 0xFF, 0x00, 0x00]] := by rfl
theorem test_playTone : txOf (exec (.opPlayTone 440 1000) State.reset)
    = some [[0xFF, 0x55, 0x07, 0x01, 0x02, Config.devBuzzer, 0xB8, 0x01, 0xE8, 0x03]] := by rfl
theorem test_playTone_refused : exec (.opPlayTone (-1) 0) State.reset = .refused .operandOutOfDomain := by rfl
theorem test_readUltrasonic : txOf (exec (.opReadUltrasonic 3 ⟨7⟩) State.reset)
    = some [[0xFF, 0x55, 0x04, 0x02, 0x01, Config.devUltrasonic, 0x03]] := by rfl
theorem test_readUltrasonic_entry : regsOf (exec (.opReadUltrasonic 3 ⟨7⟩) State.reset)
    = some (.awaitPrefixA, 3, [2]) := by rfl
theorem test_readLightness : txOf (exec (.opReadLightness 6 ⟨7⟩) waiting)
    = some [[0xFF, 0x55, 0x04, 0x03, 0x01, Config.devLight, 0x06]] := by rfl
theorem test_readLineFollower : retOf (exec (.opReadLineFollower 2 ⟨7⟩) waiting) = some (.index 3) := by rfl
theorem test_onConnect : exec .opOnConnect waiting = .next { waiting with ret := .none } := by rfl
theorem test_onDisconnect : exec .opOnDisconnect { waiting with rxs := .awaitPayload, rxRemaining := 2 }
    = .next { inState .awaitPayload with cursor := 3, rxRemaining := 2 } := by rfl
theorem test_reset : regsOf (exec .opReset { waiting with rxs := .awaitPayload, cursor := 9 })
    = some (.awaitPrefixA, 2, []) := by rfl
theorem test_frameC : txOf (exec (.frameC 0x7F 0x02 0x33 []) State.reset)
    = some [[0xFF, 0x55, 0x03, 0x7F, 0x02, 0x33]] := by decide
theorem test_frameCWrite : txOf (exec (.frameCWrite 0x33 [0xFF]) State.reset)
    = some [[0xFF, 0x55, 0x04, 0x01, 0x02, 0x33, 0xFF]] := by decide
theorem test_frameCRead : regsOf (exec (.frameCRead 3 0x33 [] ⟨8⟩) waiting) = some (.awaitPrefixA, 4, [2, 3]) := by
  decide
theorem test_frameCRead_bare : regsOf (exec (.frameCRead 9 0x33 [] ⟨8⟩) waiting) = some (.awaitPrefixA, 3, [2]) := by
  decide
theorem test_cmdMotorPair : txOf (exec (.cmdMotorPair 0xFFF6 0x000A) State.reset)
    = some [[0xFF, 0x55, 0x07, 0x01, 0x02, 0x05, 0xF6, 0xFF, 0x0A, 0x00]] := by decide
theorem test_cmdMotor : txOf (exec (.cmdMotor 0x09 0x8000) State.reset)
    = some [[0xFF, 0x55, 0x06, 0x01, 0x02, 0x0A, 0x09, 0x00, 0x80]] := by decide
theorem test_cmdLed : txOf (exec (.cmdLed 0 1 2 3) State.reset)
    = some [[0xFF, 0x55, 0x08, 0x01, 0x02, Config.devLed, Config.ledSubcmd, 0x00, 0x01, 0x02, 0x03]] := by rfl
theorem test_cmdTone : txOf (exec (.cmdTone 0xFFFF 0x8000) State.reset)
    = some [[0xFF, 0x55, 0x07, 0x01, 0x02, Config.devBuzzer, 0xFF, 0xFF, 0x00, 0x80]] := by rfl
theorem test_cmdReadUltrasonic : regsOf (exec (.cmdReadUltrasonic 2 3 ⟨7⟩) State.reset)
    = some (.awaitPrefixA, 3, [2]) := by rfl
theorem test_cmdReadLightness : txOf (exec (.cmdReadLightness 2 3 ⟨7⟩) State.reset)
    = some [[0xFF, 0x55, 0x04, 0x02, 0x01, Config.devLight, 0x03]] := by rfl
theorem test_cmdReadLineFollower : txOf (exec (.cmdReadLineFollower 5 3 ⟨7⟩) State.reset)
    = some [[0xFF, 0x55, 0x04, 0x05, 0x01, Config.devLine, 0x03]] := by rfl

/-! ## Witnesses: a concrete state and operands that meet each obligation's hypotheses together -/

/-- `n` bytes; 252 are the longest payload (V5), 255 the longest text (V43). -/
def copies (n : Nat) : List Byte := List.replicate n 0x41

theorem length_copies (n : Nat) : (copies n).length = n := List.length_replicate

/-- A state in the middle of everything: handle 7 pending at index 2, the last suffix byte of its reply expected. -/
def busy : State := { waiting with rxs := .awaitSuffixB, rxIndex := 2, rxType := 1, pbuf := [0xC8] }

theorem busy_inv : Invariant busy :=
  ⟨by decide, by decide, by decide, by decide, by decide, ⟨rfl, by unfold payloadFits; decide⟩⟩

theorem waiting_inv : Invariant waiting := ⟨by decide, by decide, by decide, by decide, by decide, trivial⟩

theorem witness_DecodeEncodeRoundTrip : (Instr.frameCRead 254 0x33 [0xAA, 0xBB] ⟨4294967295⟩).wellFormed = true ∧
    (Instr.opSetMotors (-2147483648) 2147483647).wellFormed = true ∧ (Instr.replyText 255 [0x41]).wellFormed = true ∧
    (Instr.frameCWrite 0x05 [1, 2]).wellFormed = true := by
  refine ⟨by decide, by decide, by decide, ?_⟩
  simp [Instr.wellFormed, payloadFitsFrame, isFacadeWrite, Config.payloadMax]
theorem witness_DecodedInstructionsAreWellFormed :
    ([0x12, 0x0A, 0x00, 0x00, 0x00] : List Byte).length < 65536 ∧
      decode ⟨.call, [0x12, 0x0A, 0x00, 0x00, 0x00]⟩ = .ok (.opMoveForward 10) := by decide
theorem witness_StepRunsTheDecodedInstruction :
    ({ waiting with pending := [⟨.call, [0x16]⟩, ⟨.inbound, [0xFF]⟩] } : State).pending
      = ⟨.call, [0x16]⟩ :: [⟨.inbound, [0xFF]⟩] ∧ decode ⟨.call, [0x16]⟩ = .ok .opStop := by decide
theorem witness_StepWithoutTransactionHoldsState : busy.pending = [] := by decide
theorem witness_EncodeBuildsTheFrame : (copies 252).length ≤ 252 ∧ 252 < (copies 253).length := by
  rw [length_copies, length_copies]; decide
theorem witness_EncodeIsInvertible : ∃ t, exec (.opEncode 1 2 5 [0xF6]) busy = .next t ∧
    t.ret = .bytes [0xFF, 0x55, 0x04, 1, 2, 5, 0xF6] ∧ Config.txSuffix = false := ⟨_, rfl, rfl, rfl⟩
theorem witness_Split16TakesTheTwoBytes : ((-32768 : Int) ≤ -32768 ∧ (-32768 : Int) ≤ 65535) ∧
    ((-32768 : Int) ≤ 65535 ∧ (65535 : Int) ≤ 65535) ∧ ((-32769 : Int) < -32768 ∨ (65535 : Int) < -32769) ∧
    ((65536 : Int) < -32768 ∨ (65535 : Int) < 65536) := by decide
theorem witness_Split16RoundTrips : ((-32768 : Int) ≤ -32768 ∧ (-32768 : Int) ≤ 32767) ∧
    ((-32768 : Int) ≤ 32767 ∧ (32767 : Int) ≤ 32767) ∧ ((32768 : Int) ≤ 32768 ∧ (32768 : Int) ≤ 65535) ∧
    ((32768 : Int) ≤ 65535 ∧ (65535 : Int) ≤ 65535) := by decide
theorem witness_DecodeByTypeTag : (copies 255).length ≤ 255 := by rw [length_copies]
theorem witness_DecodeDomain : payloadFits Config.tagShort [0x34, 0x12].length ∧
    payloadFits Config.tagText (copies 255).length ∧ payloadFits Config.tagText ([] : List Byte).length ∧
    ¬ payloadFits Config.tagShort [0x34].length ∧ ¬ payloadFits Config.tagText (copies 256).length ∧
    ¬ payloadFits 0x07 [0].length := by
  rw [length_copies, length_copies]
  refine ⟨?_, ?_, ?_, ?_, ?_, ?_⟩ <;> unfold payloadFits <;> decide
theorem witness_AllocationSequence : State.reset.cursor = 2 := by rfl
theorem witness_ClobberIsSilent : ({ waiting with cursor := 2 } : State).tbl.wf ∧
    tblLookup ({ waiting with cursor := 2 } : State).tbl ({ waiting with cursor := 2 } : State).cursor
      = some ⟨2, 0, ⟨7⟩⟩ ∧
    ∃ t, exec (.opAllocate ⟨8⟩) { waiting with cursor := 2 } = .next t := ⟨by decide, by decide, _, rfl⟩
theorem witness_ClobberComesAtThe253rdAllocation :
    (2 ≤ State.reset.cursor.toNat ∧ State.reset.cursor.toNat ≤ 254) ∧
    (2 ≤ ({ waiting with cursor := 254 } : State).cursor.toNat ∧
      ({ waiting with cursor := 254 } : State).cursor.toNat ≤ 254) ∧ 252 ≤ 252 := by decide
theorem witness_ResolveFiresOnceOrMisses : waiting.tbl.wf ∧ tblLookup waiting.tbl 2 = some ⟨2, 0, ⟨7⟩⟩ ∧
    tblLookup waiting.tbl 3 = none := by decide
theorem witness_ReservedIndicesNeverResolve : Invariant waiting ∧
    ((0 : Byte) = 0 ∨ (0 : Byte) = 1 ∨ (0 : Byte) = 255) ∧ ((1 : Byte) = 0 ∨ (1 : Byte) = 1 ∨ (1 : Byte) = 255) ∧
    ((255 : Byte) = 0 ∨ (255 : Byte) = 1 ∨ (255 : Byte) = 255) := ⟨waiting_inv, by decide, by decide, by decide⟩
theorem witness_FeedInAwaitPrefixA : waiting.rxs = .awaitPrefixA := by rfl
theorem witness_FeedInAwaitPrefixB : (inState .awaitPrefixB).rxs = .awaitPrefixB := by rfl
theorem witness_FeedInAwaitIndex : (inState .awaitIndex).rxs = .awaitIndex := by rfl
theorem witness_FeedInAwaitDataType : (inState .awaitDataType).rxs = .awaitDataType := by rfl
/-- Both clauses: a length byte expected, and one data byte to go. -/
theorem witness_FeedInAwaitPayload :
    (({ inState .awaitPayload with rxLenPending := true } : State).rxs = .awaitPayload ∧
      (({ inState .awaitPayload with rxLenPending := true } : State).rxLenPending = false →
        1 ≤ ({ inState .awaitPayload with rxLenPending := true } : State).rxRemaining.toNat)) ∧
    (({ inState .awaitPayload with rxRemaining := 1 } : State).rxs = .awaitPayload ∧
      (({ inState .awaitPayload with rxRemaining := 1 } : State).rxLenPending = false →
        1 ≤ ({ inState .awaitPayload with rxRemaining := 1 } : State).rxRemaining.toNat)) := by decide
theorem witness_FeedInAwaitSuffixA : (inState .awaitSuffixA).rxs = .awaitSuffixA := by rfl
theorem witness_FeedInAwaitSuffixB : busy.rxs = .awaitSuffixB := by rfl
/-- Each clause: RXS is AwaitPrefixA for the last six, AwaitSuffixB for the first. -/
theorem witness_UnselectedStepsAreRefused : busy.rxs ≠ .awaitPrefixA ∧ waiting.rxs ≠ .awaitPrefixB ∧
    waiting.rxs ≠ .awaitIndex ∧ waiting.rxs ≠ .awaitDataType ∧ waiting.rxs ≠ .awaitPayload ∧
    waiting.rxs ≠ .awaitSuffixA ∧ waiting.rxs ≠ .awaitSuffixB := by decide
/-- Each of the four disjuncts. -/
theorem witness_ResyncSetsRxsOnly :
    ((inState .awaitPrefixB).rxs = .awaitPrefixB ∧ (0xFF : Byte) ≠ 0x55) ∧
    ((inState .awaitDataType).rxs = .awaitDataType ∧ knownTag 0x0A = false) ∧
    ((inState .awaitSuffixA).rxs = .awaitSuffixA ∧ (0x0A : Byte) ≠ 0x0D) ∧
    (busy.rxs = .awaitSuffixB ∧ (0x0D : Byte) ≠ 0x0A) := by decide
theorem witness_EmittedFramesFitTheirTag : Invariant busy ∧ ∃ t, exec (.opFeed 0x0A) busy = .next t ∧
    t.ret = .frame (some ⟨2, 1, [0xC8]⟩) := ⟨busy_inv, _, rfl, rfl⟩
/-- All three outcomes: no frame, a frame with a miss, a frame with a hit. -/
theorem witness_RxByteFeedsThenDispatches : Invariant busy ∧ (feed 0x0B busy).2 = none ∧
    (feed 0x0A { busy with tbl := [] }).2 = some ⟨2, 1, [0xC8]⟩ ∧ (feed 0x0A busy).2 = some ⟨2, 1, [0xC8]⟩ ∧
    tblLookup busy.tbl 2 = some ⟨2, 0, ⟨7⟩⟩ := ⟨busy_inv, rfl, rfl, rfl, rfl⟩
theorem witness_ChunkBoundariesAreInvisible : Invariant busy := busy_inv
/-- The bound of the text clause, and a receive state in the middle of a frame, for which the statement is made. -/
theorem witness_InboundFramesAreTheirBytes : ([] : List Byte).length ≤ 255 ∧ (copies 255).length ≤ 255 ∧
    busy.rxs ≠ .awaitPrefixA := by rw [length_copies]; decide
theorem witness_InboundBytesNeverStopTheMachine :
    Invariant { busy with pending := [⟨.inbound, [0x0A, 0xFF]⟩] } ∧
      inboundNext [0x0A, 0xFF] { busy with pending := [⟨.inbound, [0x0A, 0xFF]⟩] } :=
  ⟨⟨by decide, by decide, by decide, by decide, by decide, ⟨rfl, by unfold payloadFits; decide⟩⟩, [], rfl⟩
/-- A hit and a miss. -/
theorem witness_NumericRepliesAreDelivered : waiting.rxs = .awaitPrefixA ∧
    tblLookup waiting.tbl 2 = some ⟨2, 0, ⟨7⟩⟩ ∧ tblLookup waiting.tbl 255 = none := by decide
theorem witness_TextRepliesAreDelivered : waiting.rxs = .awaitPrefixA ∧ ([] : List Byte).length ≤ 255 ∧
    (copies 255).length ≤ 255 := by rw [length_copies]; decide
theorem witness_WriteAckIsDiscarded : waiting.rxs = .awaitPrefixA := by rfl
theorem witness_FailingByteIsConsumed : waiting.rxs = .awaitPrefixA := by rfl
theorem witness_PayloadIsTransparent :
    ({ inState .awaitPayload with rxRemaining := 4 } : State).rxs = .awaitPayload ∧
    ({ inState .awaitPayload with rxRemaining := 4 } : State).rxLenPending = false ∧
    ([0xFF, 0x55, 0x0D] : List Byte).length
      < ({ inState .awaitPayload with rxRemaining := 4 } : State).rxRemaining.toNat := by decide
theorem witness_RecoveryWithin261Bytes : (copies 261).length = 261 := length_copies 261
theorem witness_SendWriteEmitsOneFrame : (copies 252).length ≤ 252 ∧ 252 < (copies 253).length := by
  rw [length_copies, length_copies]; decide
theorem witness_SendReadAllocatesThenEmits : (copies 252).length ≤ 252 ∧ 252 < (copies 253).length := by
  rw [length_copies, length_copies]; decide
theorem witness_MotorCommandsEmitTheirFrame : (-32768 : Int) ≤ -32768 ∧ (-32768 : Int) ≤ 32767 ∧
    (-32768 : Int) ≤ 32767 ∧ (32767 : Int) ≤ 32767 := by decide
theorem witness_DirectionalHelpersDriveTheMotorPair : ((-32767 : Int) ≤ -32767 ∧ (-32767 : Int) ≤ 32767) ∧
    ((-32767 : Int) ≤ 32767 ∧ (32767 : Int) ≤ 32767) := by decide
theorem witness_LedAndToneEmitTheirFrame : (0 : Int) ≤ 0 ∧ (0 : Int) ≤ 65535 ∧ (0 : Int) ≤ 65535 ∧
    (65535 : Int) ≤ 65535 := by decide
/-- Each clause at both ends of its domain. -/
theorem witness_OutOfDomainOperandsAreRefused :
    ((-32769 : Int) < -32768 ∨ (32767 : Int) < -32769) ∧ ((32768 : Int) < -32768 ∨ (32767 : Int) < 32768) ∧
    ((-32768 : Int) < -32767 ∨ (32767 : Int) < -32768) ∧ ((32768 : Int) < -32767 ∨ (32767 : Int) < 32768) ∧
    ((-1 : Int) < 0 ∨ (65535 : Int) < -1) ∧ ((65536 : Int) < 0 ∨ (65535 : Int) < 65536) := by decide
/-- Each of the six forms; the payloads at their bound. -/
theorem witness_WriteFramesLeaveAsEncoded :
    (∃ x m d p, Instr.frameC 0 0x33 5 (copies 252) = .frameC x m d p ∧ p.length ≤ 252) ∧
    (∃ d p, Instr.frameCWrite 5 (copies 252) = .frameCWrite d p ∧ p.length ≤ 252) ∧
    (∃ l r, Instr.cmdMotorPair 0x8000 0x7FFF = .cmdMotorPair l r) ∧
    (∃ p v, Instr.cmdMotor 9 0xFFFF = .cmdMotor p v) ∧
    (∃ p r g b, Instr.cmdLed 0 255 0 0 = .cmdLed p r g b) ∧ (∃ p d, Instr.cmdTone 0xFFFF 0 = .cmdTone p d) :=
  ⟨⟨_, _, _, _, rfl, by rw [length_copies]⟩, ⟨_, _, rfl, by rw [length_copies]⟩, ⟨_, _, rfl⟩, ⟨_, _, rfl⟩, ⟨_, _, _, _, rfl⟩, ⟨_, _, rfl⟩⟩
theorem witness_ReadFramesAllocateTheirIndex : ([0x03] : List Byte).length ≤ 252 ∧ (3 : Byte) = waiting.cursor ∧
    (4 : Byte) ≠ waiting.cursor := by decide
theorem witness_EveryStepKeepsTheInvariant : Invariant waiting ∧ ∃ t, step waiting = .next t := ⟨waiting_inv, _, rfl⟩
theorem witness_OnlyFeedingAndResetTouchTheParser : (∃ t, exec (.opSendRead 1 [3] ⟨8⟩) busy = .next t) ∧
    effectOf (.opSendRead 1 [3] ⟨8⟩) ≠ .feeds ∧ effectOf (.opSendRead 1 [3] ⟨8⟩) ≠ .receives ∧
    effectOf (.opSendRead 1 [3] ⟨8⟩) ≠ .resets := ⟨⟨_, rfl⟩, by decide, by decide, by decide⟩
theorem witness_OnlyAllocationAndResetMoveTheCursor : (∃ t, exec (.opResolve 2 (.int 7)) waiting = .next t) ∧
    effectOf (.opResolve 2 (.int 7)) ≠ .allocates ∧ effectOf (.opResolve 2 (.int 7)) ≠ .reads ∧
    effectOf (.opResolve 2 (.int 7)) ≠ .resets := ⟨⟨_, rfl⟩, by decide, by decide, by decide⟩
/-- Each clause: a write, a hit, an allocation with another key. -/
theorem witness_EntriesEndInNoOtherWay : waiting.tbl.wf ∧
    ((∃ t, exec .opStop waiting = .next t) ∧ effectOf .opStop = .writes) ∧
    ((∃ t, exec (.opResolve 2 (.int 7)) waiting = .next t) ∧ effectOf (.opResolve 2 (.int 7)) = .resolves) ∧
    ((∃ t, exec (.opAllocate ⟨8⟩) waiting = .next t) ∧ effectOf (.opAllocate ⟨8⟩) = .allocates ∧
      (2 : Byte) ≠ waiting.cursor) :=
  ⟨by decide, ⟨⟨_, rfl⟩, rfl⟩, ⟨⟨_, rfl⟩, rfl⟩, ⟨_, rfl⟩, rfl, by decide⟩
theorem witness_EmissionsMatchRemovals :
    ((∃ t, exec (.opRxByte 0x0A) busy = .next t) ∧ effectOf (.opRxByte 0x0A) = .receives) ∧
    ((∃ t, exec .opDiscardAll busy = .next t) ∧ effectOf .opDiscardAll ≠ .resolves ∧
      effectOf .opDiscardAll ≠ .receives) := ⟨⟨⟨_, rfl⟩, rfl⟩, ⟨_, rfl⟩, by decide, by decide⟩
theorem witness_OneFramePerOutboundCommand :
    ((∃ t, exec (.opReadUltrasonic 3 ⟨8⟩) busy = .next t) ∧ effectOf (.opReadUltrasonic 3 ⟨8⟩) = .reads) ∧
    ((∃ t, exec (.opAllocate ⟨8⟩) busy = .next t) ∧ effectOf (.opAllocate ⟨8⟩) ≠ .writes ∧
      effectOf (.opAllocate ⟨8⟩) ≠ .reads) := ⟨⟨⟨_, rfl⟩, rfl⟩, ⟨_, rfl⟩, by decide, by decide⟩
theorem witness_PureOperationsChangeNoState : (∃ t, exec (.opDecode16 0xF6 0xFF) busy = .next t) ∧
    effectOf (.opDecode16 0xF6 0xFF) = .nothing := ⟨⟨_, rfl⟩, rfl⟩
/-- Two states that differ in a time. -/
theorem witness_IssueTimesAreNeverRead :
    busy.forgetTimes = ({ busy with tbl := [(2, ⟨2, 5, ⟨7⟩⟩)] } : State).forgetTimes ∧
      busy ≠ { busy with tbl := [(2, ⟨2, 5, ⟨7⟩⟩)] } := by decide

end Sys2Proof.Tests
end

section
/-! What one step does with the queue of pending transactions (R5, R7). Both statements read off the case of
`step_cases` that the queue's shape and the decoder's answer leave. -/

namespace Sys2Proof.Proofs

open Sys2Proof Sys2Proof.Machine

/-- Settles O4: of the three cases of a step, only the one that runs an instruction agrees with the queue and the
decoder's answer, and there the transaction and the instruction are the given ones. -/
theorem stepRunsTheDecodedInstruction : Obligations.StepRunsTheDecodedInstruction := by
  intro s t rest i hpending hdecode
  obtain ⟨hnil, -⟩ | ⟨t', rest', e, hcons, herror, -⟩ | ⟨t', rest', j, hcons, hok, hstep⟩ := step_cases s
  · cases hpending.symm.trans hnil
  · cases hpending.symm.trans hcons
    cases hdecode.symm.trans herror
  · cases hpending.symm.trans hcons
    cases hdecode.symm.trans hok
    exact hstep

/-- Settles O5: the two other cases of a step need a pending transaction. -/
theorem stepWithoutTransactionHoldsState : Obligations.StepWithoutTransactionHoldsState := by
  intro s hpending
  obtain ⟨-, hstep⟩ | ⟨t, rest, e, hcons, -, -⟩ | ⟨t, rest, i, hcons, -, -⟩ := step_cases s
  · exact hstep
  · cases hpending.symm.trans hcons
  · cases hpending.symm.trans hcons

end Sys2Proof.Proofs
end

section
/-! The invariant of R33: it holds after reset, every instruction keeps it, hence every step does, and under it a
completed frame fits its tag (R31). An operation either feeds the parser, where `feed_keeps_inv` and
`rxChunk_keeps_inv` speak, or leaves the receive registers alone, where only the cursor and the table need a look, or
is `reset`. -/

namespace Sys2Proof.Proofs

open Sys2Proof Sys2Proof.Machine

/-! The two ways to have the invariant without feeding the parser. -/

/-- A fresh parser, the first cursor and an empty table have the invariant, whatever the working registers hold. -/
theorem invariant_of_fresh {s : State} (hrxs : s.rxs = .awaitPrefixA) (hcursor : s.cursor = Config.idxMin)
    (htbl : s.tbl = []) (hpbuf : s.pbuf.length ≤ Config.textMax) : Invariant s where
  cursor_range := by rw [hcursor]; decide
  live_keys := by simp [htbl]
  keys_match := by simp [htbl]
  table_wf := by rw [htbl]; exact List.Pairwise.nil
  pbuf_bound := hpbuf
  parser := by simp [ParserConsistent, hrxs]

/-- With the receive registers unchanged only I-1 to I-3 and the table's canonical form are to be shown. -/
theorem invariant_of_receiveRegisters_eq {s t : State} (hi : Invariant s)
    (hregs : receiveRegisters t = receiveRegisters s) (hcursor : 2 ≤ t.cursor.toNat ∧ t.cursor.toNat ≤ 254)
    (hkeys : ∀ p ∈ t.tbl, 2 ≤ p.1.toNat ∧ p.1.toNat ≤ 254) (hmatch : ∀ p ∈ t.tbl, p.2.index = p.1)
    (hwf : t.tbl.wf) : Invariant t := by
  simp only [receiveRegisters, Prod.mk.injEq] at hregs
  obtain ⟨hrxs, -, htype, hremaining, hlen, hpbuf⟩ := hregs
  have hparser : ParserConsistent t := by
    simpa only [ParserConsistent, hrxs, htype, hremaining, hlen, hpbuf] using hi.parser
  exact ⟨hcursor, hkeys, hmatch, hwf, hpbuf ▸ hi.pbuf_bound, hparser⟩

/-! Each shared operation keeps the invariant. -/

section
variable {s : State} (hi : Invariant s)
include hi

theorem setPending_keeps_inv (rest : List Transaction) : Invariant (s.setPending rest) :=
  invariant_of_receiveRegisters_eq hi rfl hi.cursor_range hi.live_keys hi.keys_match hi.table_wf

theorem setRet_keeps_inv (r : CmdResult) : Invariant (s.setRet r) :=
  invariant_of_receiveRegisters_eq hi rfl hi.cursor_range hi.live_keys hi.keys_match hi.table_wf

theorem emitTx_keeps_inv (f : List Byte) : Invariant (s.emitTx f) :=
  invariant_of_receiveRegisters_eq hi rfl hi.cursor_range hi.live_keys hi.keys_match hi.table_wf

/-- The one new entry stands under the cursor and carries it as its index (R211). -/
theorem allocate_keeps_inv (callback : CallbackHandle) : Invariant (allocate callback s) := by
  obtain ⟨hlow, hhigh⟩ := hi.cursor_range
  refine invariant_of_receiveRegisters_eq hi rfl (nextCursor_range s.cursor hlow hhigh) ?_ ?_
    (allocate_keeps_wf hi.table_wf)
  · intro p hp
    obtain rfl | hold := mem_of_mem_store hp
    · exact hi.cursor_range
    · exact hi.live_keys p hold
  · intro p hp
    obtain rfl | hold := mem_of_mem_store hp
    · rfl
    · exact hi.keys_match p hold

/-- What is left after a hit was listed before (R212). -/
theorem resolve_keeps_inv (k : Byte) (v : SensorValue) : Invariant (resolve k v s).1 := by
  obtain ⟨-, hmiss⟩ | ⟨e, -, hhit⟩ := resolve_cases k v s
  · rw [hmiss]; exact hi
  · rw [hhit]
    exact invariant_of_receiveRegisters_eq hi rfl hi.cursor_range
      (fun p hp => hi.live_keys p (mem_of_mem_remove hp)) (fun p hp => hi.keys_match p (mem_of_mem_remove hp))
      (wf_tblRemove hi.table_wf)

theorem discardAll_keeps_inv : Invariant (discardAll s) :=
  invariant_of_receiveRegisters_eq hi rfl hi.cursor_range (by simp [discardAll]) (by simp [discardAll])
    discardAll_keeps_wf

end

/-- `reset` reaches the invariant from every state: its free PBUF is cut to the bound of R25. -/
theorem resetEngine_inv (s : State) : Invariant (resetEngine s) :=
  invariant_of_fresh rfl rfl rfl (List.length_take_le _ _)

/-- Every instruction keeps the invariant, by the kinds of R100. -/
theorem exec_keeps_inv {i : Instr} {s t : State} (hi : Invariant s) (h : exec i s = .next t) : Invariant t := by
  obtain ⟨-, r, rfl⟩ | ⟨-, b, r, rfl⟩ | ⟨-, bs, u, hchunk, rfl⟩ | ⟨-, callback, rfl⟩ | ⟨-, k, v, r, rfl⟩ |
    ⟨-, rfl⟩ | ⟨-, f, rfl⟩ | ⟨-, ⟨callback, f, rfl⟩ | ⟨f, rfl⟩⟩ | ⟨-, rfl⟩ := exec_cases h
  · exact setRet_keeps_inv hi r
  · exact setRet_keeps_inv (feed_keeps_inv hi) r
  · exact setRet_keeps_inv (rxChunk_keeps_inv hi hchunk) .none
  · exact setRet_keeps_inv (allocate_keeps_inv hi callback) _
  · exact setRet_keeps_inv (resolve_keeps_inv hi k v) r
  · exact setRet_keeps_inv (discardAll_keeps_inv hi) .none
  · exact setRet_keeps_inv (emitTx_keeps_inv hi f) .none
  · exact setRet_keeps_inv (emitTx_keeps_inv (allocate_keeps_inv hi callback) f) _
  · exact setRet_keeps_inv (emitTx_keeps_inv hi f) .none
  · exact setRet_keeps_inv (resetEngine_inv s) .none

/-- Settles O51: the state after reset is a fresh one with an empty PBUF. -/
theorem invariantHoldsAtReset : Obligations.InvariantHoldsAtReset :=
  invariant_of_fresh rfl rfl rfl (Nat.zero_le _)

/-- Settles O52: a step holds the state, or takes a transaction off the queue and runs its instruction; a refusal
answers no next state. -/
theorem everyStepKeepsTheInvariant : Obligations.EveryStepKeepsTheInvariant := by
  intro s t hi h
  obtain ⟨-, hstep⟩ | ⟨tr, rest, e, -, -, hstep⟩ | ⟨tr, rest, i, -, -, hstep⟩ := step_cases s <;> rw [hstep] at h
  · cases h; exact hi
  · cases h
  · exact exec_keeps_inv (setPending_keeps_inv hi rest) h

/-- Settles O31: the frame handed back is the one `feed` completed, so `emitted_fits` speaks of it. -/
theorem emittedFramesFitTheirTag : Obligations.EmittedFramesFitTheirTag := by
  intro b s t f hi h hret
  have hexec : exec (.opFeed b) s = .next ((feed b s).1.setRet (.frame (feed b s).2)) := rfl
  cases hexec.symm.trans h
  have hframe : (feed b s).2 = some f := by simpa using hret
  exact emitted_fits hi hframe

end Sys2Proof.Proofs
end

section
/-! No instruction reads an issue time (R35, R297). An operation is `TimeBlind` where its outcome, less the times, is
the same from a state and from that state less its times; two states equal up to `issuedAt` then have outcomes equal up
to `issuedAt`. The shared operations are shown time-blind once, and every instruction is made of them. -/

namespace Sys2Proof.Proofs

open Sys2Proof Sys2Proof.Machine

/-- Forgetting the times before the operation makes no difference once they are forgotten after it. -/
def TimeBlind (op : State → Result) : Prop := ∀ s, forgetTimes (op s.forgetTimes) = forgetTimes (op s)

/-- A time-blind operation cannot tell states that are equal up to `issuedAt`. -/
theorem TimeBlind.outcome_eq {op : State → Result} (h : TimeBlind op) {s t : State}
    (hst : s.forgetTimes = t.forgetTimes) : forgetTimes (op s) = forgetTimes (op t) :=
  calc forgetTimes (op s) = forgetTimes (op s.forgetTimes) := (h s).symm
    _ = forgetTimes (op t.forgetTimes) := by rw [hst]
    _ = forgetTimes (op t) := h t

/-! The state's operations under forgetting. -/

@[simp] theorem forgetTimes_setRet (s : State) (r : CmdResult) :
    (s.setRet r).forgetTimes = s.forgetTimes.setRet r := rfl

@[simp] theorem forgetTimes_emitTx (s : State) (f : List Byte) :
    (s.emitTx f).forgetTimes = s.forgetTimes.emitTx f := rfl

/-- The entry goes under the same key, and its own time is forgotten with the others. -/
@[simp] theorem forgetTimes_allocate (callback : CallbackHandle) (s : State) :
    (allocate callback s.forgetTimes).forgetTimes = (allocate callback s).forgetTimes := by
  have hstore : Table.forgetTimes (allocate callback s.forgetTimes).tbl
      = Table.forgetTimes (allocate callback s).tbl := by simp [forgetTimes_tblStore]
  calc (allocate callback s.forgetTimes).forgetTimes
      = (allocate callback s).setTbl (Table.forgetTimes (allocate callback s.forgetTimes).tbl) := rfl
    _ = (allocate callback s).forgetTimes := by rw [hstore]; rfl

/-- A hit is found under the same key and hands the same handle on. -/
theorem resolve_forgetTimes (k : Byte) (v : SensorValue) (s : State) :
    resolve k v s.forgetTimes = ((resolve k v s).1.forgetTimes, (resolve k v s).2) := by
  cases h : tblLookup s.tbl k <;> simp [resolve, h, State.forgetTimes, State.setTbl, State.emitCb,
    forgetTimes_tblRemove]

/-- `feed` does not see the table at all. -/
theorem feed_forgetTimes (b : Byte) (s : State) :
    feed b s.forgetTimes = ((feed b s).1.forgetTimes, (feed b s).2) := by
  have htbl : (feed b s).1.forgetTimes = (feed b s).1.setTbl s.tbl.forgetTimes := by
    rw [← feed_tbl b s]; rfl
  rw [htbl]
  exact feed_setTbl b s s.tbl.forgetTimes

/-! Bytes on RX: dispatch looks up whether an entry is there, not when it was made. -/

theorem dispatch_forgetTimes (f : CompletedFrame) (s : State) :
    dispatch f s.forgetTimes = forgetTimes (dispatch f s) := by
  simp only [dispatch, forgetTimes_tbl, tblLookup_forgetTimes, resolve_forgetTimes]
  cases tblLookup s.tbl f.index with
  | none => rfl
  | some e => cases decodePayload f.type f.payload <;> rfl

theorem rxByte_forgetTimes (b : Byte) (s : State) : rxByte b s.forgetTimes = forgetTimes (rxByte b s) := by
  simp only [rxByte, feed_forgetTimes]
  obtain ⟨t, frame⟩ := feed b s
  cases frame with
  | none => rfl
  | some f => exact dispatch_forgetTimes f t

theorem rxChunk_forgetTimes (bs : List Byte) (s : State) : rxChunk bs s.forgetTimes = forgetTimes (rxChunk bs s) := by
  induction bs generalizing s with
  | nil => rfl
  | cons b bs ih =>
    simp only [rxChunk, rxByte_forgetTimes]
    cases rxByte b s with
    | next t => exact ih t
    | fault f => rfl
    | refused r => rfl

/-! The operations that instructions share are time-blind. -/

theorem timeBlind_refused (r : Refusal) : TimeBlind fun _ => .refused r := fun _ => rfl

/-- An operation that hands back a value and touches nothing else. -/
theorem timeBlind_setRet (r : CmdResult) : TimeBlind fun s => .next (s.setRet r) :=
  fun s => by simp

/-- A choice that the operands decide. -/
theorem timeBlind_ite {c : Prop} [Decidable c] {f g : State → Result} (hf : TimeBlind f) (hg : TimeBlind g) :
    TimeBlind fun s => if c then f s else g s := by
  by_cases h : c
  · simpa only [if_pos h] using hf
  · simpa only [if_neg h] using hg

theorem timeBlind_returning {op : State → Result} (r : CmdResult)
    (h : ∀ s, op s.forgetTimes = forgetTimes (op s)) : TimeBlind fun s => returning r (op s) := by
  intro s
  simp only [h]
  cases op s <;> simp [returning, forgetTimes]

theorem timeBlind_chunk (bs : List Byte) : TimeBlind fun s => returning .none (rxChunk bs s) :=
  timeBlind_returning .none (rxChunk_forgetTimes bs)

/-- A named step runs where RXS selects it, and there it is `feed` (R140). -/
theorem timeBlind_selectedStep {b : Byte} {a : RxState} {next : State → State}
    {frame : State → Option CompletedFrame} (hfeed : ∀ s, s.rxs = a → feed b s = (next s, frame s)) :
    TimeBlind fun s => selectedStep a (next s) (frame s) s := by
  intro s
  by_cases hx : s.rxs = a
  · have h := feed_forgetTimes b s
    rw [hfeed s hx, hfeed s.forgetTimes hx, Prod.mk.injEq] at h
    obtain ⟨hnext, hframe⟩ := h
    simp [selectedStep, hx, hnext, hframe]
  · simp [selectedStep, hx]

theorem timeBlind_sendFrame (index mode deviceId : Byte) (p : List Byte) :
    TimeBlind (sendFrame index mode deviceId p) := by
  intro s
  unfold sendFrame
  cases encodeFrame index mode deviceId p <;> simp

theorem timeBlind_sendWrite (deviceId : Byte) (p : List Byte) : TimeBlind (sendWrite deviceId p) :=
  timeBlind_sendFrame Config.idxWrite Config.modeWrite deviceId p

theorem timeBlind_sendRead (deviceId : Byte) (p : List Byte) (callback : CallbackHandle) :
    TimeBlind (sendRead deviceId p callback) := by
  intro s
  simp only [sendRead, forgetTimes_cursor]
  cases encodeFrame s.cursor Config.modeRead deviceId p <;> simp

/-- The index decides between the two, and it is compared with the CURSOR, not with an entry. -/
theorem timeBlind_sendReadFrame (k deviceId : Byte) (p : List Byte) (callback : CallbackHandle) :
    TimeBlind (sendReadFrame k deviceId p callback) := by
  intro s
  by_cases hk : k = s.cursor
  · simpa [sendReadFrame, hk] using timeBlind_sendRead deviceId p callback s
  · simpa [sendReadFrame, hk] using timeBlind_sendFrame k Config.modeRead deviceId p s

theorem timeBlind_setMotors (left right : Int) : TimeBlind (setMotors left right) :=
  timeBlind_ite (timeBlind_sendWrite _ _) (timeBlind_refused _)

theorem timeBlind_setMotor (port : Byte) (speed : Int) : TimeBlind (setMotor port speed) :=
  timeBlind_ite (timeBlind_sendWrite _ _) (timeBlind_refused _)

theorem timeBlind_drive (leftSign rightSign speed : Int) : TimeBlind (drive leftSign rightSign speed) :=
  timeBlind_ite (timeBlind_setMotors _ _) (timeBlind_refused _)

theorem timeBlind_playTone (pitch duration : Int) : TimeBlind (playTone pitch duration) :=
  timeBlind_ite (timeBlind_sendWrite _ _) (timeBlind_refused _)

/-- Every instruction is time-blind. -/
theorem timeBlind_exec (i : Instr) : TimeBlind (exec i) := by
  cases i
  case frameC => exact timeBlind_sendFrame _ _ _ _
  case frameCWrite | opSendWrite => exact timeBlind_sendWrite _ _
  case cmdLed position red green blue | opSetLED position red green blue =>
    exact timeBlind_sendWrite Config.devLed [Config.ledSubcmd, position, red, green, blue]
  case frameCRead | cmdReadUltrasonic | cmdReadLightness | cmdReadLineFollower =>
    exact timeBlind_sendReadFrame _ _ _ _
  case opSendRead => exact timeBlind_sendRead _ _ _
  case opReadUltrasonic port callback => exact timeBlind_sendRead Config.devUltrasonic [port] callback
  case opReadLightness port callback => exact timeBlind_sendRead Config.devLight [port] callback
  case opReadLineFollower port callback => exact timeBlind_sendRead Config.devLine [port] callback
  case cmdMotorPair | opSetMotors => exact timeBlind_setMotors _ _
  case opStop => exact timeBlind_setMotors 0 0
  case cmdMotor | opSetMotor => exact timeBlind_setMotor _ _
  case opMoveForward | opMoveBackward | opTurnLeft | opTurnRight => exact timeBlind_drive _ _ _
  case cmdTone | opPlayTone => exact timeBlind_playTone _ _
  case replyByte | replyFloat | replyShort | replyDouble | replyLong | ack | opRxChunk => exact timeBlind_chunk _
  case replyText => exact timeBlind_ite (timeBlind_chunk _) (timeBlind_refused _)
  case opRxByte b => exact timeBlind_returning .none (rxByte_forgetTimes b)
  case opFeed b => intro s; simp [exec, execFeed, feed_forgetTimes]
  case rxStepAwaitPrefixA b | rxStepAwaitPrefixB b | rxStepAwaitIndex b | rxStepAwaitDataType b |
      rxStepAwaitPayload b | rxStepAwaitSuffixA b | rxStepAwaitSuffixB b =>
    exact timeBlind_selectedStep (b := b) fun s hx => by simp [feed, hx]
  case opAllocate callback => intro s; simp [exec, execAllocate]
  case opResolve k v => intro s; simp [exec, execResolve, resolve_forgetTimes]
  case opDiscardAll | opOnDisconnect | opReset => exact fun s => rfl
  case opEncode index mode deviceId p =>
    intro s
    simp only [exec, execEncode]
    cases encodeFrame index mode deviceId p <;> simp
  case opSplit16 v =>
    intro s
    simp only [exec, execSplit16]
    cases split16 v <;> simp
  case opDecode tag p =>
    intro s
    simp only [exec, execDecode]
    cases decodePayload tag p <;> simp
  case opDecode16 | opIntValue | opFloatValue | opTextValue | opIsExpired | opOnConnect =>
    exact timeBlind_setRet _

/-- Settles O59: every instruction is time-blind. -/
theorem issueTimesAreNeverRead : Obligations.IssueTimesAreNeverRead :=
  fun i _ _ hst => (timeBlind_exec i).outcome_eq hst

end Sys2Proof.Proofs
end

section
/-! The memory of the machine (R51, R58, R65). Bytes on RX are one chunk, whatever row the decoder reads in them, and
under the invariant every chunk completes; the pure operations write nothing but the value handed back; a key outside
2 to 254 is never in the table. -/

namespace Sys2Proof.Proofs

open Sys2Proof Sys2Proof.Machine

/-! What the decoder reads in an RX delivery, executed, is that delivery: the converse of the reply rows' encoding. -/

/-- A numeric reply stands for the bytes it was read from (R84, R87). -/
theorem exec_of_decodeNumericReply {index tag : Byte} {r : List Byte} {i : Instr}
    (h : decodeNumericReply index tag r = some i) (s : State) :
    exec i s = deliver (Config.prefixA :: Config.prefixB :: index :: tag :: r) s := by
  unfold decodeNumericReply at h
  split at h
  case h_1 p x y =>
    obtain ⟨⟨rfl, rfl, rfl⟩, rfl⟩ := by simpa using h
    rfl
  case h_2 p q x y =>
    obtain ⟨⟨rfl, rfl, rfl⟩, rfl⟩ := by simpa using h
    simp [exec, execReplyShort, replyFrame]
  case h_3 p q r u x y =>
    split at h
    next hsuffix =>
      obtain ⟨rfl, rfl⟩ := hsuffix
      split_ifs at h with hfloat hdouble hlong
      · cases h; simp [exec, execReplyFloat, replyFrame, hfloat]
      · cases h; simp [exec, execReplyDouble, replyFrame, hdouble]
      · cases h; simp [exec, execReplyLong, replyFrame, hlong]
    next => cases h
  case h_4 => cases h

/-- A text of at most TEXT_MAX bytes is delivered as its frame (R88). -/
theorem exec_replyText {text : List Byte} (hlen : text.length ≤ Config.textMax) (index : Byte) (s : State) :
    exec (.replyText index text) s
      = deliver (replyFrame index Config.tagText (BitVec.ofNat 8 text.length :: text)) s :=
  if_pos hlen

/-- A text reply stands for the bytes it was read from: the data before the suffix are as many as the length byte
says, so they fit (R88). -/
theorem exec_of_decodeTextReply {index : Byte} {r : List Byte} {i : Instr}
    (h : decodeTextReply index r = some i) (s : State) :
    exec i s = deliver (Config.prefixA :: Config.prefixB :: index :: Config.tagText :: r) s := by
  cases r with
  | nil => cases h
  | cons len r =>
    obtain ⟨hsuffix, rfl⟩ :
        r.drop len.toNat = [Config.suffixA, Config.suffixB] ∧ .replyText index (r.take len.toNat) = i := by
      simpa [decodeTextReply] using h
    have htake : (r.take len.toNat).length = len.toNat := by
      have hdrop := congrArg List.length hsuffix
      simp only [List.length_drop, List.length_cons, List.length_nil] at hdrop
      exact List.length_take_of_le (by omega)
    have hfits : (r.take len.toNat).length ≤ Config.textMax :=
      htake.trans_le (Nat.le_of_lt_succ len.isLt)
    have hbytes : r.take len.toNat ++ [Config.suffixA, Config.suffixB] = r :=
      hsuffix ▸ List.take_append_drop len.toNat r
    rw [exec_replyText hfits, htake, BitVec.ofNat_toNat, BitVec.setWidth_eq]
    simp [replyFrame, hbytes]

/-- A reply frame or ack stands for the bytes it was read from (R84, R89). -/
theorem exec_of_decodeReply {bytes : List Byte} {i : Instr} (h : decodeReply bytes = some i) (s : State) :
    exec i s = deliver bytes s := by
  unfold decodeReply at h
  split at h
  next a b index tag r =>
    split_ifs at h with hprefix hack htext
    · obtain ⟨rfl, rfl⟩ := hprefix
      obtain ⟨rfl, rfl, rfl⟩ := hack
      cases h; rfl
    · obtain ⟨rfl, rfl⟩ := hprefix
      subst htext
      exact exec_of_decodeTextReply h s
    · obtain ⟨rfl, rfl⟩ := hprefix
      exact exec_of_decodeNumericReply h s
  next => cases h

/-- One byte is a chunk of one (R151). -/
theorem rxChunk_singleton (b : Byte) (s : State) : rxChunk [b] s = rxByte b s := by
  simp only [rxChunk]
  cases rxByte b s <;> rfl

/-- Whatever row the decoder reads in an RX delivery, executing it is taking the bytes as one chunk (R65, R151). -/
theorem exec_decodeInbound (bytes : List Byte) (s : State) : exec (decodeInbound bytes) s = deliver bytes s := by
  unfold decodeInbound
  split
  next i hreply => exact exec_of_decodeReply hreply s
  next =>
    split
    next b _ => exact congrArg (returning .none) (rxChunk_singleton b s).symm
    next => rfl

/-- Under the invariant a delivery completes (R280). -/
theorem deliver_completes {s : State} (hi : Invariant s) (bytes : List Byte) : ∃ t, deliver bytes s = .next t := by
  obtain ⟨u, hu⟩ := rxChunk_completes (bs := bytes) hi
  exact ⟨u.setRet .none, returning_eq_next.2 ⟨u, hu, rfl⟩⟩

/-- Settles O35: the step is the delivery of the bytes, which completes; that the invariant survives is O52. -/
theorem inboundBytesNeverStopTheMachine : Obligations.InboundBytesNeverStopTheMachine := by
  intro bytes s hi ⟨rest, hpending⟩
  have hstep : step s = deliver bytes (s.setPending rest) :=
    (stepRunsTheDecodedInstruction s _ rest _ hpending rfl).trans (exec_decodeInbound bytes _)
  obtain ⟨t, ht⟩ := deliver_completes (setPending_keeps_inv hi rest) bytes
  have hnext : step s = .next t := hstep.trans ht
  exact ⟨t, hnext, everyStepKeepsTheInvariant s t hi hnext⟩

/-- Settles O58: of the kinds of R100 only the pure one has this effect, and it records a value. -/
theorem pureOperationsChangeNoState : Obligations.PureOperationsChangeNoState := by
  intro i s t h hpure
  obtain ⟨-, r, rfl⟩ | ⟨heffect, -⟩ | ⟨heffect, -⟩ | ⟨heffect, -⟩ | ⟨heffect, -⟩ | ⟨heffect, -⟩ | ⟨heffect, -⟩ |
    ⟨heffect, -⟩ | ⟨heffect, -⟩ := exec_cases h
  · rfl
  all_goals cases hpure.symm.trans heffect

/-- A live key is in the range of I-2, so a lookup outside it misses. -/
theorem tblLookup_none_of_out_of_range {s : State} (hi : Invariant s) {k : Byte} (hk : k.toNat < 2 ∨ 254 < k.toNat) :
    tblLookup s.tbl k = none := by
  refine tblLookup_eq_none.2 fun p hp hkey => ?_
  obtain ⟨hlow, hhigh⟩ := hi.live_keys p hp
  rw [hkey] at hlow hhigh
  omega

/-- Settles O19: the reserved indices are outside the range of the live keys, so `resolve` misses. -/
theorem reservedIndicesNeverResolve : Obligations.ReservedIndicesNeverResolve := by
  intro k v s hi hk
  have hout : k.toNat < 2 ∨ 254 < k.toNat := by
    obtain rfl | rfl | rfl := hk <;> decide
  obtain ⟨-, hmiss⟩ | ⟨e, hhit, -⟩ := resolve_cases k v s
  · simp only [exec, execResolve, hmiss, State.setRet]
  · cases (tblLookup_none_of_out_of_range hi hout).symm.trans hhit

end Sys2Proof.Proofs
end

section
/-! Decode inverts encode (R81, R84, R88, R89, R100), one theorem for each channel's decoder at the bytes the encoder
writes. The call and command decoders are stated with any bytes `r` behind the encoding, so that every operand is seen
to be read to its end and no further. -/

namespace Sys2Proof.Proofs

open Sys2Proof Sys2Proof.Machine

/-! The most specific row of a command frame (assumption log 17). -/

/-- A frame has the row FRAME.C to itself where it is neither a write frame nor a read frame. -/
theorem wellFormed_frameC_iff {index mode deviceId : Byte} {p : List Byte} :
    (Instr.frameC index mode deviceId p).wellFormed = true ↔ payloadFitsFrame p = true ∧
      ¬ (index = Config.idxWrite ∧ mode = Config.modeWrite) ∧
      ¬ (mode = Config.modeRead ∧ allocatable index = true) := by
  simp [Instr.wellFormed, and_assoc, imp_iff_not_or]

/-- A write frame that is no facade command stays a write frame. -/
theorem decodeWriteFrame_of_not_facade {deviceId : Byte} {p : List Byte} (h : isFacadeWrite deviceId p = false) :
    decodeWriteFrame deviceId p = .frameCWrite deviceId p := by
  unfold decodeWriteFrame
  split <;> simp_all [isFacadeWrite]

/-- A read frame that is no sensor read stays a read frame. -/
theorem decodeReadFrame_of_not_facade {deviceId : Byte} {p : List Byte} (h : isFacadeRead deviceId p = false)
    (index : Byte) (callback : CallbackHandle) :
    decodeReadFrame index deviceId p callback = .frameCRead index deviceId p callback := by
  unfold decodeReadFrame
  split <;> simp_all [isFacadeRead]

/-- The write frame's index and mode select the write rows (R91). -/
theorem decodeCommand_writeFrame {p : List Byte} (hp : payloadFitsFrame p = true) (deviceId : Byte) (r : List Byte) :
    decodeCommand (commandFrame Config.idxWrite Config.modeWrite deviceId p ++ r)
      = .ok (decodeWriteFrame deviceId p, r) := by
  rw [decodeCommand_commandFrame hp, if_pos ⟨rfl, rfl⟩]

/-- The read mode and an index of the allocator select the read rows, and the handle follows (assumption log 16). -/
theorem decodeCommand_readFrame {p : List Byte} {index : Byte} {callback : CallbackHandle}
    (hp : payloadFitsFrame p = true) (hindex : allocatable index = true) (hcallback : handleFits callback = true)
    (deviceId : Byte) (r : List Byte) :
    decodeCommand (commandFrame index Config.modeRead deviceId p ++ (putHandle callback ++ r))
      = .ok (decodeReadFrame index deviceId p callback, r) := by
  have hmode : ¬ (index = Config.idxWrite ∧ Config.modeRead = Config.modeWrite) := fun h => absurd h.2 (by decide)
  rw [decodeCommand_commandFrame hp, if_neg hmode, if_pos ⟨rfl, hindex⟩, getHandle_putHandle hcallback]
  rfl

/-- A well-formed command frame is read back, and what follows it is left over (R81, R91). -/
theorem decodeCommand_encode {i : Instr} (hchannel : (encode i).channel = .command) (hwf : i.wellFormed = true)
    (r : List Byte) : decodeCommand ((encode i).bytes ++ r) = .ok (i, r) := by
  cases i
  case frameC index mode deviceId p =>
    obtain ⟨hp, hwrite, hread⟩ := wellFormed_frameC_iff.1 hwf
    rw [encode, decodeCommand_commandFrame hp, if_neg hwrite, if_neg hread]
  case frameCWrite deviceId p =>
    obtain ⟨hp, hgeneric⟩ := by simpa [Instr.wellFormed] using hwf
    rw [encode, decodeCommand_writeFrame hp, decodeWriteFrame_of_not_facade hgeneric]
  case cmdMotorPair | cmdMotor =>
    rw [encode, decodeCommand_writeFrame rfl]
    simp [decodeWriteFrame, halfBytes]
  case cmdLed position red green blue =>
    rw [encode, decodeCommand_writeFrame rfl]
    simp [decodeWriteFrame]
  case cmdTone pitch duration =>
    have hdevice : Config.devBuzzer ≠ Config.devMotorPair := by simpa [Instr.wellFormed] using hwf
    rw [encode, decodeCommand_writeFrame rfl]
    simp [decodeWriteFrame, halfBytes, hdevice]
  case frameCRead index deviceId p callback =>
    obtain ⟨⟨⟨hindex, hp⟩, hgeneric⟩, hcallback⟩ := by simpa [Instr.wellFormed] using hwf
    rw [encode, List.append_assoc, decodeCommand_readFrame hp hindex hcallback,
      decodeReadFrame_of_not_facade hgeneric]
  case cmdReadUltrasonic index port callback =>
    obtain ⟨hindex, hcallback⟩ := by simpa [Instr.wellFormed] using hwf
    rw [encode, List.append_assoc, decodeCommand_readFrame rfl hindex hcallback]
    simp [decodeReadFrame]
  case cmdReadLightness index port callback =>
    obtain ⟨⟨hindex, hcallback⟩, hdevice⟩ := by simpa [Instr.wellFormed] using hwf
    rw [encode, List.append_assoc, decodeCommand_readFrame rfl hindex hcallback]
    simp [decodeReadFrame, hdevice]
  case cmdReadLineFollower index port callback =>
    obtain ⟨⟨⟨hindex, hcallback⟩, hultrasonic⟩, hlight⟩ := by simpa [Instr.wellFormed] using hwf
    rw [encode, List.append_assoc, decodeCommand_readFrame rfl hindex hcallback]
    simp [decodeReadFrame, hultrasonic, hlight]
  all_goals cases hchannel

/-- A reply frame with a tag other than text's is read by its payload's length and its tag (R84, R87). -/
theorem decodeReply_replyFrame {tag : Byte} (hsuffix : tag ≠ Config.suffixB) (htext : tag ≠ Config.tagText)
    (index : Byte) (p : List Byte) : decodeReply (replyFrame index tag p)
      = decodeNumericReply index tag (p ++ [Config.suffixA, Config.suffixB]) := by
  simp [decodeReply, replyFrame, hsuffix, htext]

/-- A text reply is read by its length byte, which counts the data (R88). -/
theorem decodeReply_textFrame {text : List Byte} (hlen : text.length ≤ 255) (index : Byte) :
    decodeReply (replyFrame index Config.tagText (BitVec.ofNat 8 text.length :: text))
      = some (.replyText index text) := by
  have hcount : (BitVec.ofNat 8 text.length).toNat = text.length := by
    rw [BitVec.toNat_ofNat, Nat.mod_eq_of_lt (by omega)]
  have htag : Config.tagText ≠ Config.suffixB := by decide
  simp [decodeReply, replyFrame, htag, decodeTextReply, hcount]

/-- A well-formed reply frame or ack is read back from its bytes, all of them (R84, R89). -/
theorem decodeReply_encode {i : Instr} (hchannel : (encode i).channel = .inbound) (hwf : i.wellFormed = true) :
    decodeReply (encode i).bytes = some i := by
  cases i
  case ack => rfl
  case replyText index text => exact decodeReply_textFrame (of_decide_eq_true hwf) index
  case replyByte | replyShort | replyFloat =>
    rw [encode, decodeReply_replyFrame (by decide) (by decide)]
    simp [decodeNumericReply, halfBytes, wordBytes]
  case replyDouble index pattern =>
    have hfloat : Config.tagDouble ≠ Config.tagFloat := by decide
    rw [encode, decodeReply_replyFrame (by decide) (by decide)]
    simp [decodeNumericReply, wordBytes, hfloat]
  case replyLong index value =>
    have hfloat : Config.tagLong ≠ Config.tagFloat := by decide
    have hdouble : Config.tagLong ≠ Config.tagDouble := by decide
    rw [encode, decodeReply_replyFrame (by decide) (by decide)]
    simp [decodeNumericReply, wordBytes, hfloat, hdouble]
  all_goals cases hchannel

/-- The decoder takes a reply frame or ack as its row, never as a chunk (R65). -/
theorem decodeInbound_encode {i : Instr} (hchannel : (encode i).channel = .inbound) (hwf : i.wellFormed = true) :
    decodeInbound (encode i).bytes = i := by
  simp [decodeInbound, decodeReply_encode hchannel hwf]

/-- A step of `feed` is read back (R21). -/
theorem decodeRxStep_encode {i : Instr} (hchannel : (encode i).channel = .rxStep) (r : List Byte) :
    decodeRxStep ((encode i).bytes ++ r) = .ok (i, r) := by
  cases i
  case rxStepAwaitPrefixA | rxStepAwaitPrefixB | rxStepAwaitIndex | rxStepAwaitDataType | rxStepAwaitPayload |
    rxStepAwaitSuffixA | rxStepAwaitSuffixB => rfl
  all_goals cases hchannel

@[simp] theorem orBadOperands_some {α : Type} (a : α) : orBadOperands (some a) = .ok a := rfl

/-- A well-formed call is read back, and what follows its last operand is left over (R100, assumption log 2). -/
theorem decodeCall_encode {i : Instr} (hchannel : (encode i).channel = .call) (hwf : i.wellFormed = true)
    (r : List Byte) : decodeCall ((encode i).bytes ++ r) = .ok (i, r) := by
  cases i
  case opDecode16 | opFeed | opRxByte | opDiscardAll | opStop | opSetLED | opOnConnect | opOnDisconnect | opReset =>
    rfl
  case opEncode | opRxChunk | opDecode | opSendWrite =>
    simp [encode, decodeCall, getBytes_putBytes hwf]
  case opSendRead =>
    obtain ⟨hbytes, hcallback⟩ := by simpa [Instr.wellFormed] using hwf
    simp [encode, decodeCall, getBytes_putBytes hbytes, getHandle_putHandle hcallback]
  case opSplit16 | opSetMotor | opMoveForward | opMoveBackward | opTurnLeft | opTurnRight =>
    simp [encode, decodeCall, getInt_putInt hwf]
  case opSetMotors | opPlayTone =>
    obtain ⟨hfirst, hsecond⟩ := by simpa [Instr.wellFormed] using hwf
    simp [encode, decodeCall, getInt_putInt hfirst, getInt_putInt hsecond]
  case opIntValue | opFloatValue | opTextValue | opResolve =>
    simp [encode, decodeCall, getValue_putValue hwf]
  case opAllocate | opReadUltrasonic | opReadLightness | opReadLineFollower =>
    simp [encode, decodeCall, getHandle_putHandle hwf]
  case opIsExpired => simp [encode, decodeCall, getEntry_putEntry hwf]
  all_goals cases hchannel

/-- Nothing is left over of an encoding (assumption log 2). -/
@[simp] theorem finish_nil (i : Instr) : finish (i, []) = .ok i := rfl

/-- Settles O1: each channel's decoder reads the instruction back with nothing left over. -/
theorem decodeEncodeRoundTrip : Obligations.DecodeEncodeRoundTrip := by
  intro i hwf
  cases hchannel : (encode i).channel with
  | call =>
    have hdecode : decodeCall (encode i).bytes = .ok (i, []) := by simpa using decodeCall_encode hchannel hwf []
    simp [decode, hchannel, hdecode, Except.bind]
  | command =>
    have hdecode : decodeCommand (encode i).bytes = .ok (i, []) := by simpa using decodeCommand_encode hchannel hwf []
    simp [decode, hchannel, hdecode, Except.bind]
  | inbound => simp [decode, hchannel, decodeInbound_encode hchannel hwf]
  | rxStep =>
    have hdecode : decodeRxStep (encode i).bytes = .ok (i, []) := by simpa using decodeRxStep_encode hchannel []
    simp [decode, hchannel, hdecode, Except.bind]

end Sys2Proof.Proofs
end

section
/-! Whatever decodes is well-formed. `Answers x P` says that the operand reader `x` answers nothing but what has `P`;
each operand form answers operands that fit their field, and the rule for a read followed by more reads carries that to
the instruction built from them. -/

namespace Sys2Proof.Proofs

open Sys2Proof Sys2Proof.Machine

/-- Whatever the reader answers has the property; it may answer nothing. -/
def Answers {α : Type} (x : Option (α × List Byte)) (P : α → Prop) : Prop := ∀ a r, x = some (a, r) → P a

theorem answers_any {α : Type} (x : Option (α × List Byte)) : Answers x fun _ => True := fun _ _ _ => trivial

theorem answers_none {α : Type} (P : α → Prop) : Answers none P := fun _ _ h => nomatch h

theorem answers_pure {α : Type} {P : α → Prop} {a : α} (h : P a) (r : List Byte) : Answers (pure (a, r)) P := by
  rintro _ _ ⟨⟩
  exact h

/-- What the first read answers may be used of the reads behind it. -/
theorem Answers.bind {α β : Type} {x : Option (α × List Byte)} {f : α × List Byte → Option (β × List Byte)}
    {P : α → Prop} {Q : β → Prop} (hx : Answers x P) (hf : ∀ a r, P a → Answers (f (a, r)) Q) :
    Answers (x >>= f) Q := by
  intro b r h
  obtain ⟨⟨a, r'⟩, ha, hb⟩ := Option.bind_eq_some_iff.1 h
  exact hf a r' (hx a r' ha) b r hb

/-- An operand of any value is read first. -/
theorem answers_skip {α β : Type} {x : Option (α × List Byte)} {f : α × List Byte → Option (β × List Byte)}
    {Q : β → Prop} (hf : ∀ a r, Answers (f (a, r)) Q) : Answers (x >>= f) Q :=
  (answers_any x).bind fun a r _ => hf a r

/-- A read whose answer is put in another form. -/
theorem answers_map {α β : Type} {P : β → Prop} {f : α → β} (hf : ∀ a, P (f a)) (x : Option (α × List Byte)) :
    Answers (x.map fun y => (f y.1, y.2)) P := by
  intro b r h
  obtain ⟨⟨a, r'⟩, -, hb⟩ := Option.map_eq_some_iff.1 h
  cases hb
  exact hf a

/-! What each operand form answers fits its field (assumption log 2). -/

theorem intFits_toInt (w : Word) : intFits w.toInt = true := by
  have hlow := BitVec.le_toInt w
  have hhigh := BitVec.toInt_lt (x := w)
  exact decide_eq_true ⟨hlow, Int.le_of_lt_add_one hhigh⟩

theorem getInt_answers (bytes : List Byte) : Answers (getInt bytes) (intFits · = true) :=
  answers_map intFits_toInt _

theorem getHandle_answers (bytes : List Byte) : Answers (getHandle bytes) (handleFits · = true) :=
  answers_map (f := fun w : Word => (⟨w.toNat⟩ : CallbackHandle)) (fun w => decide_eq_true w.isLt) _

theorem getCounted_answers (n : Nat) (bytes : List Byte) : Answers (getCounted n bytes) (·.length = n) :=
  fun _ _ h => (length_of_getCounted h).1

theorem getBytes_answers (bytes : List Byte) : Answers (getBytes bytes) (bytesFit · = true) := by
  unfold getBytes
  split
  next n0 n1 r =>
    intro p rest h
    have hlen : p.length = (half n0 n1).toNat := (length_of_getCounted h).1
    exact decide_eq_true (hlen ▸ (half n0 n1).isLt)
  next => exact answers_none _

theorem getValue_answers (bytes : List Byte) : Answers (getValue bytes) (valueFits · = true) := by
  unfold getValue
  split
  next k r =>
    split
    · exact answers_map (f := SensorValue.int) (fun _ => rfl) _
    · exact answers_map (f := SensorValue.float) (fun _ => rfl) _
    · refine answers_skip fun n r' => (getCounted_answers n.toNat r').bind fun s r'' hlen => ?_
      have hfits : valueFits (.text s) = true := decide_eq_true (hlen.trans_le (Nat.le_of_lt_succ n.isLt))
      exact answers_pure (P := (valueFits · = true)) hfits r''
    · exact answers_none _
  next => exact answers_none _

theorem getEntry_answers (bytes : List Byte) : Answers (getEntry bytes) (entryFits · = true) := by
  refine answers_skip fun i r => answers_skip fun t r' => (getHandle_answers r').bind fun callback r'' hcallback =>
    answers_pure ?_ r''
  have htime : t.toNat < 4294967296 := t.isLt
  simp [entryFits, htime, hcallback]

/-! The operations of R100. -/

/-- The last operand is read, and the instruction is built. -/
theorem answers_instr {i : Instr} {r : List Byte} (h : i.wellFormed = true) :
    Answers (pure (i, r)) (Instr.wellFormed · = true) :=
  answers_pure (P := (Instr.wellFormed · = true)) h r

/-- A reader's answer becomes the decoder's. -/
theorem wellFormed_of_orBadOperands {x : Option (Instr × List Byte)} {i : Instr} {r : List Byte}
    (h : orBadOperands x = .ok (i, r)) (hx : Answers x (Instr.wellFormed · = true)) : i.wellFormed = true := by
  cases x with
  | none => cases h
  | some a => cases h; exact hx i r rfl

/-- What the call decoder answers is well-formed: its operands are what their readers answer. The branches stand in the
order of the selectors, `h_1` for selector 0x00. -/
theorem wellFormed_of_decodeCall {bytes r : List Byte} {i : Instr} (h : decodeCall bytes = .ok (i, r)) :
    i.wellFormed = true := by
  unfold decodeCall at h
  split at h
  · cases h
  split at h
  case h_13 | h_23 | h_29 | h_30 | h_31 => cases h; rfl
  case h_32 => cases h
  case h_3 => exact wellFormed_of_orBadOperands h <| answers_skip fun _ _ => answers_skip fun _ _ => answers_instr rfl
  case h_4 | h_5 => exact wellFormed_of_orBadOperands h <| answers_skip fun _ _ => answers_instr rfl
  case h_24 =>
    exact wellFormed_of_orBadOperands h <| answers_skip fun _ _ => answers_skip fun _ _ => answers_skip fun _ _ =>
      answers_skip fun _ _ => answers_instr rfl
  case h_1 =>
    exact wellFormed_of_orBadOperands h <| answers_skip fun _ _ => answers_skip fun _ _ => answers_skip fun _ _ =>
      (getBytes_answers _).bind fun _ _ hbytes => answers_instr hbytes
  case h_6 =>
    exact wellFormed_of_orBadOperands h <| (getBytes_answers _).bind fun _ _ hbytes => answers_instr hbytes
  case h_7 | h_15 =>
    exact wellFormed_of_orBadOperands h <| answers_skip fun _ _ =>
      (getBytes_answers _).bind fun _ _ hbytes => answers_instr hbytes
  case h_16 =>
    exact wellFormed_of_orBadOperands h <| answers_skip fun _ _ =>
      (getBytes_answers _).bind fun _ _ hbytes => (getHandle_answers _).bind fun _ _ hcallback =>
        answers_instr (Bool.and_eq_true_iff.2 ⟨hbytes, hcallback⟩)
  case h_2 | h_19 | h_20 | h_21 | h_22 =>
    exact wellFormed_of_orBadOperands h <| (getInt_answers _).bind fun _ _ hv => answers_instr hv
  case h_18 =>
    exact wellFormed_of_orBadOperands h <| answers_skip fun _ _ =>
      (getInt_answers _).bind fun _ _ hv => answers_instr hv
  case h_17 | h_25 =>
    exact wellFormed_of_orBadOperands h <| (getInt_answers _).bind fun _ _ hfirst =>
      (getInt_answers _).bind fun _ _ hsecond => answers_instr (Bool.and_eq_true_iff.2 ⟨hfirst, hsecond⟩)
  case h_8 | h_9 | h_10 =>
    exact wellFormed_of_orBadOperands h <| (getValue_answers _).bind fun _ _ hv => answers_instr hv
  case h_12 =>
    exact wellFormed_of_orBadOperands h <| answers_skip fun _ _ =>
      (getValue_answers _).bind fun _ _ hv => answers_instr hv
  case h_11 =>
    exact wellFormed_of_orBadOperands h <| (getHandle_answers _).bind fun _ _ hcallback => answers_instr hcallback
  case h_26 | h_27 | h_28 =>
    exact wellFormed_of_orBadOperands h <| answers_skip fun _ _ =>
      (getHandle_answers _).bind fun _ _ hcallback => answers_instr hcallback
  case h_14 =>
    exact wellFormed_of_orBadOperands h <| (getEntry_answers _).bind fun _ _ hentry => answers_instr hentry

/-! The command frames (R81, R91). -/

/-- A facade write is one of the rows of R91, with a payload of that row's length. -/
theorem isFacadeWrite_cases {deviceId : Byte} {p : List Byte} (h : isFacadeWrite deviceId p = true) :
    (deviceId = Config.devMotorPair ∧ ∃ p0 p1 p2 p3, p = [p0, p1, p2, p3]) ∨
    (deviceId = Config.devMotor ∧ ∃ p0 p1 p2, p = [p0, p1, p2]) ∨
    (deviceId = Config.devLed ∧ ∃ p1 p2 p3 p4, p = [Config.ledSubcmd, p1, p2, p3, p4]) ∨
    (deviceId = Config.devBuzzer ∧ ∃ p0 p1 p2 p3, p = [p0, p1, p2, p3]) := by
  simp only [isFacadeWrite, Bool.or_eq_true, Bool.and_eq_true, beq_iff_eq] at h
  obtain ((⟨hdevice, hlen⟩ | ⟨hdevice, hlen⟩) | ⟨⟨hdevice, hlen⟩, hhead⟩) | ⟨hdevice, hlen⟩ := h
  · exact .inl ⟨hdevice, List.length_eq_four.1 hlen⟩
  · exact .inr (.inl ⟨hdevice, List.length_eq_three.1 hlen⟩)
  · obtain ⟨p0, rest, rfl, hrest⟩ := List.length_eq_succ_iff.1 hlen
    cases hhead
    obtain ⟨p1, p2, p3, p4, rfl⟩ := List.length_eq_four.1 hrest
    exact .inr (.inr (.inl ⟨hdevice, p1, p2, p3, p4, rfl⟩))
  · exact .inr (.inr (.inr ⟨hdevice, List.length_eq_four.1 hlen⟩))

/-- A write frame is read as a well-formed instruction: the tone row only where the motor pair's does not shadow it
(assumption log 17). -/
theorem wellFormed_decodeWriteFrame {p : List Byte} (hp : payloadFitsFrame p = true) (deviceId : Byte) :
    (decodeWriteFrame deviceId p).wellFormed = true := by
  cases hfacade : isFacadeWrite deviceId p with
  | false => simp [decodeWriteFrame_of_not_facade hfacade, Instr.wellFormed, hp, hfacade]
  | true =>
    obtain ⟨rfl, p0, p1, p2, p3, rfl⟩ | ⟨rfl, p0, p1, p2, rfl⟩ | ⟨rfl, p1, p2, p3, p4, rfl⟩ |
      ⟨rfl, p0, p1, p2, p3, rfl⟩ := isFacadeWrite_cases hfacade
    case inr.inr.inr =>
      by_cases hshadow : Config.devBuzzer = Config.devMotorPair <;>
        simp [decodeWriteFrame, Instr.wellFormed, hshadow]
    all_goals simp [decodeWriteFrame, Instr.wellFormed]

/-- A read frame is read as a well-formed instruction: each sensor row only where those before it do not shadow it
(assumption log 17). -/
theorem wellFormed_decodeReadFrame {p : List Byte} {index : Byte} {callback : CallbackHandle}
    (hp : payloadFitsFrame p = true) (hindex : allocatable index = true) (hcallback : handleFits callback = true)
    (deviceId : Byte) : (decodeReadFrame index deviceId p callback).wellFormed = true := by
  cases hfacade : isFacadeRead deviceId p with
  | false => simp [decodeReadFrame_of_not_facade hfacade, Instr.wellFormed, hp, hindex, hcallback, hfacade]
  | true =>
    obtain ⟨hlen, -⟩ := Bool.and_eq_true_iff.1 hfacade
    obtain ⟨port, rfl⟩ := List.length_eq_one_iff.1 (beq_iff_eq.1 hlen)
    simp only [decodeReadFrame]
    split_ifs with hultrasonic hlight hline
    · simp [Instr.wellFormed, hindex, hcallback]
    · simp [Instr.wellFormed, hindex, hcallback, ← hlight, hultrasonic]
    · simp [Instr.wellFormed, hindex, hcallback, ← hline, hultrasonic, hlight]
    · simp [isFacadeRead, hultrasonic, hlight, hline] at hfacade

/-- What the command decoder answers is well-formed: the payload is counted by a length byte, so it fits (R82). -/
theorem wellFormed_of_decodeCommand {bytes r : List Byte} {i : Instr} (h : decodeCommand bytes = .ok (i, r)) :
    i.wellFormed = true := by
  unfold decodeCommand at h
  split at h
  case h_2 => cases h
  split at h
  case isFalse => cases h
  split at h
  case h_1 => cases h
  next len index mode deviceId rest _ _ p rest' hpayload =>
    have hlen : p.length = len.toNat - 3 := (length_of_getCounted hpayload).1
    have hfits : payloadFitsFrame p = true := by
      have hbyte := len.isLt
      exact decide_eq_true (show p.length ≤ 252 by omega)
    split at h
    case h_1 => cases h
    split_ifs at h with hwrite hread
    · cases h
      exact wellFormed_decodeWriteFrame hfits deviceId
    · exact wellFormed_of_orBadOperands h <| (getHandle_answers _).bind fun callback _ hcallback =>
        answers_instr (wellFormed_decodeReadFrame hfits hread.2 hcallback deviceId)
    · cases h
      exact wellFormed_frameC_iff.2 ⟨hfits, hwrite, hread⟩

/-! The inbound rows (R84, R88, R89) and the steps of `feed` (R21). -/

theorem wellFormed_of_decodeNumericReply {index tag : Byte} {r : List Byte} {i : Instr}
    (h : decodeNumericReply index tag r = some i) : i.wellFormed = true := by
  unfold decodeNumericReply at h
  split at h
  case h_4 => cases h
  all_goals
    split_ifs at h
    all_goals cases h; rfl

/-- The data of a text are at most as many as the length byte says (R88). -/
theorem wellFormed_of_decodeTextReply {index : Byte} {r : List Byte} {i : Instr}
    (h : decodeTextReply index r = some i) : i.wellFormed = true := by
  unfold decodeTextReply at h
  split at h
  next len r =>
    split_ifs at h
    cases h
    exact decide_eq_true ((List.length_take_le _ _).trans (Nat.le_of_lt_succ len.isLt))
  next => cases h

theorem wellFormed_of_decodeReply {bytes : List Byte} {i : Instr} (h : decodeReply bytes = some i) :
    i.wellFormed = true := by
  unfold decodeReply at h
  split at h
  next =>
    split_ifs at h
    · cases h; rfl
    · exact wellFormed_of_decodeTextReply h
    · exact wellFormed_of_decodeNumericReply h
  next => cases h

/-- A chunk is well-formed if a call could carry it (assumption log 2). -/
theorem wellFormed_decodeInbound {bytes : List Byte} (hlen : bytes.length < 65536) :
    (decodeInbound bytes).wellFormed = true := by
  unfold decodeInbound
  split
  case h_1 i hreply => exact wellFormed_of_decodeReply hreply
  case h_2 =>
    split
    · rfl
    · exact decide_eq_true hlen

theorem wellFormed_of_decodeRxStep {bytes r : List Byte} {i : Instr} (h : decodeRxStep bytes = .ok (i, r)) :
    i.wellFormed = true := by
  unfold decodeRxStep at h
  split at h
  case h_2 => cases h
  split at h <;> cases h <;> rfl

/-- What `finish` passes is what the decoder answered. -/
theorem ok_of_bind_finish {x : Except DecodeError (Instr × List Byte)} {i : Instr} (h : x.bind finish = .ok i) :
    ∃ r, x = .ok (i, r) := by
  cases x with
  | error e => cases h
  | ok a =>
    obtain ⟨j, r⟩ := a
    simp only [Except.bind, finish] at h
    split at h
    · cases h; exact ⟨r, rfl⟩
    · cases h

/-- Settles O2: each channel's decoder answers well-formed instructions only. -/
theorem decodedInstructionsAreWellFormed : Obligations.DecodedInstructionsAreWellFormed := by
  intro t i hlen h
  unfold decode at h
  split at h
  · obtain ⟨r, hcall⟩ := ok_of_bind_finish h
    exact wellFormed_of_decodeCall hcall
  · obtain ⟨r, hcommand⟩ := ok_of_bind_finish h
    exact wellFormed_of_decodeCommand hcommand
  · cases h
    exact wellFormed_decodeInbound hlen
  · obtain ⟨r, hstep⟩ := ok_of_bind_finish h
    exact wellFormed_of_decodeRxStep hstep

end Sys2Proof.Proofs
end

section
/-! The words of the spec, and what the frame rows do with their bytes: an inbound frame is its bytes on RX
(assumption log 18), a write frame and a directional helper put theirs on TX (assumption log 15). -/

namespace Sys2Proof.Proofs

open Sys2Proof Sys2Proof.Machine

/-- What the encoder writes for a well-formed instruction stands for it. -/
theorem decode_of_encode_eq {t : Transaction} {i : Instr} (ht : encode i = t) (hwf : i.wellFormed = true) :
    decode t = .ok i :=
  ht ▸ decodeEncodeRoundTrip i hwf

/-- Settles O3: nine of the words are what the encoder writes for the instruction they stand for, and 0x1F is above the
last selector. -/
theorem writtenOutWordsDecode : Obligations.WrittenOutWordsDecode := by
  refine ⟨?_, ?_, ?_, ?_, ?_, ?_, ?_, ?_, ?_, rfl⟩
  all_goals exact decode_of_encode_eq (by decide) (by decide)

/-! Inbound frames. -/

/-- An inbound instruction, executed, is the chunk of its encoding's bytes: the decoder reads the instruction in those
bytes, and what it reads in a delivery is that delivery. -/
theorem exec_eq_rxChunk_encode {i : Instr} (hchannel : (encode i).channel = .inbound) (hwf : i.wellFormed = true)
    (s : State) : exec i s = exec (.opRxChunk (encode i).bytes) s := by
  have hread := exec_decodeInbound (encode i).bytes s
  rwa [decodeInbound_encode hchannel hwf] at hread

/-- Settles O34: once the bytes of the encoding are written out, the chunk is the one of `exec_eq_rxChunk_encode`. -/
theorem inboundFramesAreTheirBytes : Obligations.InboundFramesAreTheirBytes := by
  intro k p0 p1 p2 p3 text s isChunk
  have chunk_of_bytes {i : Instr} {bytes : List Byte} (hchannel : (encode i).channel = .inbound)
      (hwf : i.wellFormed = true) (hbytes : (encode i).bytes = bytes) : isChunk i bytes :=
    ⟨hbytes, hbytes ▸ exec_eq_rxChunk_encode hchannel hwf s⟩
  have hhalf : halfBytes (p1 ++ p0) = [p0, p1] := halfBytes_half p0 p1
  have hword : wordBytes (p3 ++ p2 ++ p1 ++ p0) = [p0, p1, p2, p3] := wordBytes_word p0 p1 p2 p3
  refine ⟨chunk_of_bytes rfl rfl rfl, chunk_of_bytes rfl rfl ?_, chunk_of_bytes rfl rfl ?_, chunk_of_bytes rfl rfl ?_,
    chunk_of_bytes rfl rfl ?_, fun hlen => chunk_of_bytes rfl (decide_eq_true hlen) rfl, chunk_of_bytes rfl rfl rfl⟩
  · rw [encode, hhalf]; rfl
  all_goals rw [encode, hword]; rfl

/-! Outbound frames. -/

/-- Settles O45: each helper is `drive` with the signs of its wheels, and `stop` is `setMotors` at zero. -/
theorem directionalHelpersDriveTheMotorPair : Obligations.DirectionalHelpersDriveTheMotorPair := by
  intro v s hlow hhigh driven
  have hturn := turnLeftSign_cases
  have hopposite : -Config.turnLeftSign = 1 ∨ -Config.turnLeftSign = -1 := by omega
  have hforward := drive_eq hlow hhigh (.inr rfl) (.inl rfl) s
  have hbackward := drive_eq hlow hhigh (.inl rfl) (.inr rfl) s
  have hstop : setMotors 0 0 s = .next (driven 0 0) :=
    setMotors_eq (by decide) (by decide) (by decide) (by decide) s
  rw [neg_one_mul, one_mul] at hforward hbackward
  exact ⟨hforward, hbackward, drive_eq hlow hhigh hturn hturn s, drive_eq hlow hhigh hopposite hopposite s, hstop⟩

/-- A signed 16-bit field is in the domain of the motor commands. -/
theorem signedField_range (v : Half) : -32768 ≤ signedField v ∧ signedField v ≤ 32767 :=
  ⟨BitVec.le_toInt v, Int.le_of_lt_add_one BitVec.toInt_lt⟩

/-- An unsigned 16-bit field is in the domain of the tone command. -/
theorem unsignedField_range (v : Half) : 0 ≤ unsignedField v ∧ unsignedField v ≤ 65535 := by
  have hbound := v.isLt
  simp only [unsignedField]
  omega

/-- Settles O49: each row is the facade's operation at fields that are in its domain, and the fields' bytes are those
of the encoding. -/
theorem writeFramesLeaveAsEncoded : Obligations.WriteFramesLeaveAsEncoded := by
  intro i s hi
  obtain ⟨index, mode, deviceId, p, rfl, hlen⟩ | ⟨deviceId, p, rfl, hlen⟩ | ⟨left, right, rfl⟩ | ⟨port, speed, rfl⟩ |
    ⟨position, red, green, blue, rfl⟩ | ⟨pitch, duration, rfl⟩ := hi
  · exact sendFrame_eq hlen index mode deviceId s
  · exact sendWrite_eq hlen deviceId s
  · obtain ⟨hleft, hleft'⟩ := signedField_range left
    obtain ⟨hright, hright'⟩ := signedField_range right
    have hsent := setMotors_eq hleft hleft' hright hright' s
    rw [signedField, signedField, BitVec.ofInt_toInt, BitVec.ofInt_toInt] at hsent
    exact hsent
  · obtain ⟨hlow, hhigh⟩ := signedField_range speed
    have hsent := setMotor_eq hlow hhigh port s
    rw [signedField, BitVec.ofInt_toInt] at hsent
    exact hsent
  · exact sendWrite_eq (p := [Config.ledSubcmd, position, red, green, blue]) (by simp) Config.devLed s
  · obtain ⟨hpitch, hpitch'⟩ := unsignedField_range pitch
    obtain ⟨hduration, hduration'⟩ := unsignedField_range duration
    have hsent := playTone_eq hpitch hpitch' hduration hduration' s
    rw [unsignedField, unsignedField, BitVec.ofInt_natCast, BitVec.ofInt_natCast, BitVec.ofNat_toNat,
      BitVec.ofNat_toNat, BitVec.setWidth_eq, BitVec.setWidth_eq] at hsent
    exact hsent

end Sys2Proof.Proofs
end

section
/-! The Frame Codec (R120 to R125). `encode` builds the layout `commandFrame`, from which the operands are read back.
The 16-bit split is seen through the 16-bit field of its pair of bytes: `split16` takes a value's field apart,
`decode16` is the signed reading of the field, and the round trips are those of `BitVec.ofInt` and `BitVec.toInt`. -/

namespace Sys2Proof.Proofs

open Sys2Proof Sys2Proof.Machine

/-! The 16-bit split. -/

/-- Inside its domain `split16` answers the bytes of the 16-bit pattern (R123). -/
theorem split16_eq {v : Int} (hlow : -32768 ≤ v) (hhigh : v ≤ 65535) :
    split16 v = some ((BitVec.ofInt 16 v).extractLsb' 0 8, (BitVec.ofInt 16 v).extractLsb' 8 8) := by
  rw [split16, if_neg (by omega), lowByte_eq, highByte_eq]

/-- Outside its domain `split16` has no result (R123, D14). -/
theorem split16_none {v : Int} (hout : v < -32768 ∨ 65535 < v) : split16 v = none := if_pos hout

/-- `decode16` is the signed reading of the field its two bytes compose (R124). -/
theorem decode16_eq_signedField (lo hi : Byte) : decode16 lo hi = signedField (half lo hi) := by
  rw [decode16_eq, signedField, BitVec.toInt_eq_toNat_cond, half_toNat]
  push_cast
  split <;> split <;> omega

/-- `decode16` of a field's bytes is the field's signed reading. -/
theorem decode16_halfBytes (v : Half) : decode16 (v.extractLsb' 0 8) (v.extractLsb' 8 8) = signedField v := by
  rw [decode16_eq_signedField, half_halfBytes]

/-- `split16` of a field's signed reading gives the field's bytes. -/
theorem split16_signedField (v : Half) : split16 (signedField v) = some (v.extractLsb' 0 8, v.extractLsb' 8 8) := by
  obtain ⟨hlow, hhigh⟩ := signedField_range v
  rw [split16_eq hlow (by omega), signedField, BitVec.ofInt_toInt]

/-- A signed 16-bit value is the signed reading of its pattern. -/
theorem signedField_ofInt {v : Int} (hlow : -32768 ≤ v) (hhigh : v ≤ 32767) : signedField (BitVec.ofInt 16 v) = v := by
  rw [signedField, BitVec.toInt_ofInt]
  exact Int.bmod_eq_of_le hlow (Int.lt_add_one_of_le hhigh)

/-- From 32768 on the pattern of an unsigned 16-bit value is that of the value less 65536. -/
theorem signedField_ofInt_unsigned {v : Int} (hlow : 32768 ≤ v) (hhigh : v ≤ 65535) :
    signedField (BitVec.ofInt 16 v) = v - 65536 := by
  have hpattern : BitVec.ofInt 16 v = BitVec.ofInt 16 (v - 65536) := by
    apply BitVec.eq_of_toInt_eq
    rw [BitVec.toInt_ofInt, BitVec.toInt_ofInt]
    exact (Int.sub_bmod_right v (2 ^ 16)).symm
  rw [hpattern, signedField_ofInt (by omega) (by omega)]

/-- Settles O10: both ways round go through the 16-bit field, whose bytes and whose signed reading each determine it. -/
theorem split16RoundTrips : Obligations.Split16RoundTrips := by
  refine ⟨fun v hlow hhigh => ?_, fun lo hi => ?_, fun v hlow hhigh => ?_⟩
  · exact ⟨_, _, split16_eq hlow (by omega), (decode16_halfBytes _).trans (signedField_ofInt hlow hhigh)⟩
  · obtain ⟨hlo, hhi⟩ : (half lo hi).extractLsb' 0 8 = lo ∧ (half lo hi).extractLsb' 8 8 = hi := by
      simpa [halfBytes] using halfBytes_half lo hi
    rw [decode16_eq_signedField, split16_signedField, hlo, hhi]
  · exact ⟨_, _, split16_eq (by omega) hhigh, (decode16_halfBytes _).trans (signedField_ofInt_unsigned hlow hhigh)⟩

/-- Settles O8: the operation records the bytes of `split16_eq`, or is refused where `split16` has no result. -/
theorem split16TakesTheTwoBytes : Obligations.Split16TakesTheTwoBytes := by
  refine fun v s => ⟨fun hlow hhigh => ?_, fun hout => ?_⟩
  · simp only [exec, execSplit16, split16_eq hlow hhigh, State.setRet]
  · simp only [exec, execSplit16, split16_none hout]

/-- Settles O9: `decode16_eq` is the sign extension, and the operation records it. -/
theorem decode16SignExtends : Obligations.Decode16SignExtends := by
  intro lo hi s u
  simp only [exec, execDecode16, decode16_eq, State.setRet, u]

/-! The command frame. -/

/-- Inside its domain `encode` hands back the layout of R81 (R121). -/
theorem execEncode_eq {p : List Byte} (hlen : p.length ≤ 252) (index mode deviceId : Byte) (s : State) :
    execEncode index mode deviceId p s = .next (s.setRet (.bytes (commandFrame index mode deviceId p))) := by
  rw [execEncode, encodeFrame_eq hlen]

/-- Above 252 payload bytes `encode` is refused (R121, D13). -/
theorem execEncode_refused {p : List Byte} (hlen : 252 < p.length) (index mode deviceId : Byte) (s : State) :
    execEncode index mode deviceId p s = .refused .payloadTooLong := by
  rw [execEncode, encodeFrame_none hlen]

/-- Where `encode` answers, the payload fits and the answer is the layout of R81. -/
theorem execEncode_next {index mode deviceId : Byte} {p : List Byte} {s t : State}
    (h : execEncode index mode deviceId p s = .next t) :
    p.length ≤ 252 ∧ t = s.setRet (.bytes (commandFrame index mode deviceId p)) := by
  obtain hlen | hlen := Nat.lt_or_ge 252 p.length
  · cases (execEncode_refused hlen index mode deviceId s).symm.trans h
  · cases (execEncode_eq hlen index mode deviceId s).symm.trans h
    exact ⟨hlen, rfl⟩

/-- Without the suffix a command frame is its six header bytes and the payload (R81). -/
theorem commandFrame_of_no_suffix (hsuffix : Config.txSuffix = false) (index mode deviceId : Byte) (p : List Byte) :
    commandFrame index mode deviceId p
      = [0xFF, 0x55, BitVec.ofNat 8 (3 + p.length), index, mode, deviceId] ++ p := by
  rw [commandFrame, hsuffix, if_neg Bool.false_ne_true, List.append_nil]
  rfl

/-- The length byte of a payload that fits does not wrap (R82). -/
theorem lengthByte_toNat {n : Nat} (hn : n ≤ 252) : (BitVec.ofNat 8 (3 + n)).toNat = n + 3 := by
  rw [BitVec.toNat_ofNat]
  omega

/-- Settles O6: on each side of the bound, `encode` is the layout or the refusal. -/
theorem encodeBuildsTheFrame : Obligations.EncodeBuildsTheFrame := by
  refine fun index mode deviceId p s => ⟨fun hlen => ?_, fun hlen => execEncode_refused hlen index mode deviceId s⟩
  rw [Nat.add_comm p.length]
  exact execEncode_eq hlen index mode deviceId s

/-- Settles O7: an answer of `encode` is the layout at a payload that fits, and the layout shows each operand at its
offset. -/
theorem encodeIsInvertible : Obligations.EncodeIsInvertible := by
  intro index mode deviceId p r s t hexec hret hsuffix
  obtain ⟨hlen, rfl⟩ := execEncode_next hexec
  cases hret
  rw [commandFrame_of_no_suffix hsuffix]
  have hlength : ([0xFF, 0x55, BitVec.ofNat 8 (3 + p.length), index, mode, deviceId] ++ p).length = 6 + p.length :=
    List.length_append
  exact ⟨hlength, rfl, rfl, rfl, rfl, rfl, rfl, _, rfl, lengthByte_toNat hlen⟩

end Sys2Proof.Proofs
end

section
/-! The receive machine byte by byte (R140 to R149, R153, R154 (d)). In each receive state `feed` is the step of that
state, and the RXSTEP row of that state is the same step; what the step does stands in Laws/Receive. Payload bytes are
counted by induction over them, and recovery is a bound on the bytes still to come that every byte lowers. -/

namespace Sys2Proof.Proofs

open Sys2Proof Sys2Proof.Machine

/-! Which step RXS selects (R140). -/

section
variable {s : State} (b : Byte)

theorem feed_of_awaitPrefixA (hx : s.rxs = .awaitPrefixA) : feed b s = (feedAwaitPrefixA b s, none) := by
  simp only [feed, hx]

theorem feed_of_awaitPrefixB (hx : s.rxs = .awaitPrefixB) : feed b s = (feedAwaitPrefixB b s, none) := by
  simp only [feed, hx]

theorem feed_of_awaitIndex (hx : s.rxs = .awaitIndex) : feed b s = (feedAwaitIndex b s, none) := by
  simp only [feed, hx]

theorem feed_of_awaitDataType (hx : s.rxs = .awaitDataType) : feed b s = (feedAwaitDataType b s, none) := by
  simp only [feed, hx]

theorem feed_of_awaitPayload (hx : s.rxs = .awaitPayload) : feed b s = (feedAwaitPayload b s, none) := by
  simp only [feed, hx]

theorem feed_of_awaitSuffixA (hx : s.rxs = .awaitSuffixA) : feed b s = (feedAwaitSuffixA b s, none) := by
  simp only [feed, hx]

theorem feed_of_awaitSuffixB (hx : s.rxs = .awaitSuffixB) : feed b s = (feedAwaitSuffixB s, emittedFrame b s) := by
  simp only [feed, hx]

end

/-- The frame AwaitSuffixB hands back is the registers as they stand (R147, R31). -/
theorem emittedFrame_eq (b : Byte) (s : State) :
    emittedFrame b s = if b = 0x0A then some ⟨s.rxIndex, s.rxType, s.pbuf⟩ else none := by
  rw [emittedFrame, memRead_whole]
  rfl

/-- The operation records the frame beside what `feed` does (R140). -/
theorem exec_opFeed {b : Byte} {s t : State} {f : Option CompletedFrame} (hfeed : feed b s = (t, f)) :
    exec (.opFeed b) s = .next (t.setRet (.frame f)) := by
  simp only [exec, execFeed, hfeed]

/-- Where RXS selects the step, the step by name and `feed` agree (R140). -/
theorem selectedStep_and_feed {a : RxState} {b : Byte} {s u t : State} {f : Option CompletedFrame} (hx : s.rxs = a)
    (hfeed : feed b s = (u, f)) (hnext : u.setRet (.frame f) = t) :
    selectedStep a u f s = .next t ∧ exec (.opFeed b) s = .next t :=
  hnext ▸ ⟨if_pos hx, exec_opFeed hfeed⟩

/-- Where RXS does not select the step, it is refused (R140, assumption log 19). -/
theorem selectedStep_refused {a : RxState} {s : State} (hx : s.rxs ≠ a) (t : State) (f : Option CompletedFrame) :
    selectedStep a t f s = .refused .stepNotSelected :=
  if_neg hx

/-- A byte whose step is the resync and completes no frame (R148). -/
theorem exec_opFeed_resync {b : Byte} {s : State} (hfeed : feed b s = (raiseResync s, none)) :
    exec (.opFeed b) s = .next { s with rxs := .awaitPrefixA, ret := .frame none } :=
  exec_opFeed hfeed

/-! The six known tags (R86, R149). -/

theorem knownTag_iff {b : Byte} : knownTag b = true ↔
    b = Config.tagByte ∨ b = Config.tagFloat ∨ b = Config.tagShort ∨ b = Config.tagText ∨ b = Config.tagDouble ∨
      b = Config.tagLong := by
  simp [knownTag, knownTags]

/-! The steps by state. -/

/-- Settles O22: the step of AwaitPrefixA. -/
theorem feedInAwaitPrefixA : Obligations.FeedInAwaitPrefixA := by
  intro b s hx
  refine selectedStep_and_feed hx (feed_of_awaitPrefixA b hx) ?_
  rw [feedAwaitPrefixA_eq]
  rfl

/-- Settles O23: the step of AwaitPrefixB. -/
theorem feedInAwaitPrefixB : Obligations.FeedInAwaitPrefixB := by
  intro b s hx
  refine selectedStep_and_feed hx (feed_of_awaitPrefixB b hx) ?_
  rw [feedAwaitPrefixB_eq]
  rfl

/-- Settles O24: the step of AwaitIndex has no check. -/
theorem feedInAwaitIndex : Obligations.FeedInAwaitIndex := fun b _ hx =>
  selectedStep_and_feed hx (feed_of_awaitIndex b hx) rfl

/-- Settles O25: a known tag is one of the six, each with its row of the type-to-length table. -/
theorem feedInAwaitDataType : Obligations.FeedInAwaitDataType := by
  intro b s hx
  refine selectedStep_and_feed hx (feed_of_awaitDataType b hx) ?_
  by_cases hknown : knownTag b = true
  · rw [feedAwaitDataType_known b s hknown]
    obtain rfl | rfl | rfl | rfl | rfl | rfl := knownTag_iff.1 hknown <;> rfl
  · obtain ⟨hbyte, hfloat, hshort, htext, hdouble, hlong⟩ := by
      simpa only [knownTag_iff, not_or] using hknown
    rw [feedAwaitDataType_unknown b s hknown, if_neg htext, if_neg hbyte, if_neg hfloat, if_neg hshort,
      if_neg hdouble, if_neg hlong]
    rfl

/-- Settles O26: a pending length byte sets the count; any other byte is stored, and the count was at least 1. -/
theorem feedInAwaitPayload : Obligations.FeedInAwaitPayload := by
  intro b s hx hcount
  obtain ⟨hstep, hfeed⟩ := selectedStep_and_feed hx (feed_of_awaitPayload b hx) rfl
  refine ⟨_, hstep, hfeed, fun hlength => ?_, fun hdata => ⟨s.rxRemaining - 1, ?_, ?_⟩⟩
  · rw [feedAwaitPayload_length b s hlength]
    rfl
  · rw [remaining_sub_one (hcount hdata), Nat.sub_add_cancel (hcount hdata)]
  · rw [feedAwaitPayload_data b s hdata]
    rfl

/-- Settles O27: the step of AwaitSuffixA. -/
theorem feedInAwaitSuffixA : Obligations.FeedInAwaitSuffixA := by
  intro b s hx
  refine selectedStep_and_feed hx (feed_of_awaitSuffixA b hx) ?_
  rw [feedAwaitSuffixA_eq]
  rfl

/-- Settles O28: the step of AwaitSuffixB goes to AwaitPrefixA whatever the byte is. -/
theorem feedInAwaitSuffixB : Obligations.FeedInAwaitSuffixB := by
  intro b s hx
  refine selectedStep_and_feed hx (feed_of_awaitSuffixB b hx) ?_
  rw [emittedFrame_eq]
  rfl

/-- Settles O29: each row is a `selectedStep` at its own state. -/
theorem unselectedStepsAreRefused : Obligations.UnselectedStepsAreRefused := fun _ _ =>
  ⟨fun hx => selectedStep_refused hx _ _, fun hx => selectedStep_refused hx _ _,
    fun hx => selectedStep_refused hx _ _, fun hx => selectedStep_refused hx _ _,
    fun hx => selectedStep_refused hx _ _, fun hx => selectedStep_refused hx _ _,
    fun hx => selectedStep_refused hx _ _⟩

/-- Settles O30: in each of the four states the failing byte's step is the resync, with no frame. -/
theorem resyncSetsRxsOnly : Obligations.ResyncSetsRxsOnly := by
  rintro b s (⟨hx, hfail⟩ | ⟨hx, hfail⟩ | ⟨hx, hfail⟩ | ⟨hx, hfail⟩) <;> refine exec_opFeed_resync ?_
  · rw [feed_of_awaitPrefixB b hx, feedAwaitPrefixB, if_neg (show b ≠ Config.prefixB from hfail)]
  · rw [feed_of_awaitDataType b hx, feedAwaitDataType, if_neg (Bool.not_eq_true _ ▸ hfail)]
  · rw [feed_of_awaitSuffixA b hx, feedAwaitSuffixA, if_neg (show b ≠ Config.suffixA from hfail)]
  · rw [feed_of_awaitSuffixB b hx, emittedFrame_eq, if_neg hfail]
    rfl

/-! Payload bytes (R153). -/

/-- Settles O40: each byte before the last expected one leaves a count, so AwaitPayload stays. -/
theorem payloadIsTransparent : Obligations.PayloadIsTransparent := by
  intro bs
  induction bs with
  | nil => intro s hx _ _; exact ⟨rfl, hx, (List.append_nil _).symm, rfl, rfl, rfl⟩
  | cons b bs ih =>
    intro s hx hdata hlength
    rw [List.length_cons] at hlength
    have hcount : (s.rxRemaining - 1).toNat = s.rxRemaining.toNat - 1 := remaining_sub_one (by omega)
    have hmore : s.rxRemaining - 1 ≠ 0 := fun hzero => by
      have : (s.rxRemaining - 1).toNat = 0 := congrArg BitVec.toNat hzero
      omega
    have hfeed : feed b s = ({ s with pbuf := s.pbuf ++ [b], rxRemaining := s.rxRemaining - 1 }, none) := by
      rw [feed_payload_data hx hdata, if_neg hmore, ← hx]
    have hrest : bs.length < (s.rxRemaining - 1).toNat := by omega
    obtain ⟨hframes, hrxs, hpbuf, hleft, htype, hindex⟩ :=
      ih { s with pbuf := s.pbuf ++ [b], rxRemaining := s.rxRemaining - 1 } hx hdata hrest
    simp only [feedMany, framesOf, hfeed, List.length_cons]
    refine ⟨hframes, hrxs, ?_, ?_, htype, hindex⟩
    · rw [hpbuf, List.append_assoc, List.singleton_append]
    · simp only [hcount] at hleft
      omega

/-! Recovery (R154 (d)). -/

/-- How many payload bytes a count stands for; a count of 0 wraps (assumption log 20). -/
def bytesCounted (n : Byte) : Nat := (n - 1).toNat + 1

theorem bytesCounted_le (n : Byte) : bytesCounted n ≤ 256 := (n - 1).isLt

theorem bytesCounted_of_ne_zero {n : Byte} (h : n ≠ 0) : bytesCounted n = n.toNat := by
  have hpos : 1 ≤ n.toNat := Nat.one_le_iff_ne_zero.2 (BitVec.toNat_ne.1 h)
  rw [bytesCounted, remaining_sub_one hpos, Nat.sub_add_cancel hpos]

/-- A bound on the bytes until AwaitPrefixA: the longest rest of a frame, a text of 255 bytes where its length is still
to come. -/
def bytesToRecovery (s : State) : Nat :=
  match s.rxs with
  | .awaitPrefixA => 0
  | .awaitPrefixB => 261
  | .awaitIndex => 260
  | .awaitDataType => 259
  | .awaitPayload => if s.rxLenPending then 258 else bytesCounted s.rxRemaining + 2
  | .awaitSuffixA => 2
  | .awaitSuffixB => 1

/-- In AwaitPayload the bound is at most that of a text whose length is still to come. -/
theorem bytesToRecovery_awaitPayload_le {s : State} (hx : s.rxs = .awaitPayload) : bytesToRecovery s ≤ 258 := by
  have hcount := bytesCounted_le s.rxRemaining
  simp only [bytesToRecovery, hx]
  split <;> omega

/-- No bound is above that of AwaitPrefixB. -/
theorem bytesToRecovery_le (s : State) : bytesToRecovery s ≤ 261 := by
  cases hx : s.rxs
  case awaitPayload => exact (bytesToRecovery_awaitPayload_le hx).trans (by decide)
  all_goals simp [bytesToRecovery, hx]

/-- A payload byte lowers the bound: the length byte counts at most 255 bytes, any other byte is one of those
counted. -/
theorem bytesToRecovery_feedAwaitPayload_lt (b : Byte) {s : State} (hx : s.rxs = .awaitPayload) :
    bytesToRecovery (feedAwaitPayload b s) < bytesToRecovery s := by
  cases hlen : s.rxLenPending
  case true =>
    rw [feedAwaitPayload_length b s hlen]
    by_cases hb : b = 0
    · simp [bytesToRecovery, hx, hlen, hb]
    · simp only [bytesToRecovery, hx, hlen, hb, bytesCounted_of_ne_zero hb, if_true, if_false, Bool.false_eq_true]
      omega
  case false =>
    rw [feedAwaitPayload_data b s hlen]
    by_cases hn : s.rxRemaining - 1 = 0
    · rw [if_pos hn]
      simp [bytesToRecovery, hx, hlen, bytesCounted]
    · have hcounted : bytesCounted (s.rxRemaining - 1) < bytesCounted s.rxRemaining := by
        rw [bytesCounted_of_ne_zero hn]
        exact Nat.lt_succ_self _
      rw [if_neg hn]
      simpa [bytesToRecovery, hx, hlen] using hcounted

/-- Every byte outside AwaitPrefixA lowers the bound. -/
theorem bytesToRecovery_feed_lt (b : Byte) {s : State} (hx : s.rxs ≠ .awaitPrefixA) :
    bytesToRecovery (feed b s).1 < bytesToRecovery s := by
  cases hrxs : s.rxs with
  | awaitPrefixA => exact absurd hrxs hx
  | awaitPrefixB =>
    rw [feed_of_awaitPrefixB b hrxs, feedAwaitPrefixB_eq]
    by_cases hb : b = Config.prefixB <;> simp [bytesToRecovery, hrxs, hb]
  | awaitIndex =>
    rw [feed_of_awaitIndex b hrxs, feedAwaitIndex_eq]
    simp [bytesToRecovery, hrxs]
  | awaitDataType =>
    rw [feed_of_awaitDataType b hrxs, show bytesToRecovery s = 259 by simp only [bytesToRecovery, hrxs]]
    by_cases hknown : knownTag b = true
    · rw [feedAwaitDataType_known b s hknown]
      exact Nat.lt_succ_of_le (bytesToRecovery_awaitPayload_le rfl)
    · rw [feedAwaitDataType_unknown b s hknown]
      simp [bytesToRecovery]
  | awaitPayload =>
    rw [feed_of_awaitPayload b hrxs]
    exact bytesToRecovery_feedAwaitPayload_lt b hrxs
  | awaitSuffixA =>
    rw [feed_of_awaitSuffixA b hrxs, feedAwaitSuffixA_eq]
    by_cases hb : b = Config.suffixA <;> simp [bytesToRecovery, hrxs, hb]
  | awaitSuffixB =>
    rw [feed_of_awaitSuffixB b hrxs, feedAwaitSuffixB_eq]
    simp [bytesToRecovery, hrxs]

/-- Enough bytes lead to AwaitPrefixA after some first part of them. -/
theorem feedMany_recovers {bs : List Byte} {s : State} (h : bytesToRecovery s ≤ bs.length) :
    ∃ n, n ≤ bs.length ∧ (feedMany (bs.take n) s).rxs = .awaitPrefixA := by
  induction bs generalizing s with
  | nil =>
    have hx : s.rxs = .awaitPrefixA := by
      by_contra hx
      exact Nat.not_lt_zero _ ((bytesToRecovery_feed_lt 0 hx).trans_le h)
    exact ⟨0, Nat.le_refl _, hx⟩
  | cons b bs ih =>
    by_cases hx : s.rxs = .awaitPrefixA
    · exact ⟨0, Nat.zero_le _, hx⟩
    · obtain ⟨n, hn, hrecovered⟩ := ih (Nat.le_of_lt_succ ((bytesToRecovery_feed_lt b hx).trans_le h))
      exact ⟨n + 1, Nat.succ_le_succ hn, hrecovered⟩

/-- Settles O41: 261 bytes are as many as the bound of any state asks for. -/
theorem recoveryWithin261Bytes : Obligations.RecoveryWithin261Bytes := fun _ s hlength =>
  hlength ▸ feedMany_recovers ((bytesToRecovery_le s).trans_eq hlength.symm)

end Sys2Proof.Proofs
end

section
/-! Bytes in sequence (R150 to R152, R154 (a), R155). A completed frame is dispatched to the entry at its index; a chunk
is its bytes one after another, and a reply frame met in AwaitPrefixA is parsed, then dispatched. The other instructions
leave the receive registers alone (R156). -/

namespace Sys2Proof.Proofs

open Sys2Proof Sys2Proof.Machine

/-! One byte (R150). -/

section
variable {b : Byte} {s t : State} {f : CompletedFrame} (hfeed : feed b s = (t, some f))
include hfeed

/-- A completed frame is dispatched in the table that was there before the byte. -/
theorem rxByte_of_frame : rxByte b s = dispatch f t ∧ t.tbl = s.tbl ∧ t.cb = s.cb := by
  have hkeeps := feed_frame b s
  rw [hfeed] at hkeeps
  obtain ⟨-, htbl, -, -, -, -, hcb⟩ := hkeeps
  exact ⟨by simp only [rxByte, hfeed], htbl, hcb⟩

/-- A frame at whose index nothing is pending is dropped. -/
theorem rxByte_miss (hmiss : tblLookup s.tbl f.index = none) : rxByte b s = .next t := by
  obtain ⟨hdispatch, htbl, -⟩ := rxByte_of_frame hfeed
  simp only [hdispatch, dispatch, htbl, hmiss]

/-- A frame at whose index an entry is pending resolves it with the decoded payload. -/
theorem rxByte_hit {e : Entry} {v : SensorValue} (hhit : tblLookup s.tbl f.index = some e)
    (hv : decodePayload f.type f.payload = some v) :
    rxByte b s = .next { t with tbl := tblRemove s.tbl f.index, cb := s.cb ++ [(e.onResolve, v)] } := by
  obtain ⟨hdispatch, htbl, hcb⟩ := rxByte_of_frame hfeed
  simp only [hdispatch, dispatch, resolve, htbl, hhit, hv, State.emitCb, State.setTbl, hcb]

end

/-- The operation hands back nothing (R150). -/
theorem exec_opRxByte {b : Byte} {s t : State} (h : rxByte b s = .next t) :
    exec (.opRxByte b) s = .next (t.setRet .none) :=
  returning_eq_next.2 ⟨t, h, rfl⟩

/-- Settles O32: a completed frame decodes under the invariant (R181), so a hit is dispatched. -/
theorem rxByteFeedsThenDispatches : Obligations.RxByteFeedsThenDispatches := by
  intro b s hi
  rcases hfeed : feed b s with ⟨t, _ | f⟩
  · exact exec_opRxByte (rxByte_of_feed hfeed)
  · dsimp only
    cases hlookup : tblLookup s.tbl f.index with
    | none => exact exec_opRxByte (rxByte_miss hfeed hlookup)
    | some e =>
      have hfits : payloadFits f.type f.payload.length := emitted_fits hi (congrArg Prod.snd hfeed)
      obtain ⟨v, hv⟩ := Option.isSome_iff_exists.1 ((decodePayload_isSome f.type f.payload).2 hfits)
      exact ⟨v, tblRemove s.tbl f.index, hv, exec_opRxByte (rxByte_hit hfeed hlookup hv),
        tblLookup_remove_same hi.table_wf, fun j hj => tblLookup_remove_other hj⟩

/-! Chunks (R151). -/

/-- The operation hands back nothing (R151). -/
theorem exec_opRxChunk {bs : List Byte} {s t : State} (h : rxChunk bs s = .next t) :
    exec (.opRxChunk bs) s = .next (t.setRet .none) :=
  returning_eq_next.2 ⟨t, h, rfl⟩

/-- Settles O33: under the invariant both chunks complete, and the second does not read what the first handed back. -/
theorem chunkBoundariesAreInvisible : Obligations.ChunkBoundariesAreInvisible := by
  refine fun c a b s => ⟨rfl, congrArg (returning .none) (rxChunk_singleton c s), fun hi => ?_⟩
  obtain ⟨t, ht⟩ := rxChunk_completes (bs := a) hi
  obtain ⟨u, hu⟩ := rxChunk_completes (bs := b) (rxChunk_keeps_inv hi ht)
  have hsecond : rxChunk b (t.setRet .none) = .next (u.setRet .none) := by rw [rxChunk_setRet, hu]
  have hwhole : rxChunk (a ++ b) s = .next u := by rw [rxChunk_append, ht]; exact hu
  exact ⟨t.setRet .none, u.setRet .none, exec_opRxChunk ht, exec_opRxChunk (t := u.setRet .none) hsecond,
    exec_opRxChunk hwhole⟩

/-! Bytes that complete no frame, met in AwaitPrefixA. -/

section
variable {s : State} (hx : s.rxs = .awaitPrefixA) (bs : List Byte)
include hx

/-- A byte other than PREFIX_A is skipped (R141). -/
theorem rxChunk_skip {b : Byte} (hb : b ≠ 0xFF) : rxChunk (b :: bs) s = rxChunk bs s := by
  refine rxChunk_cons ?_
  rw [feed_of_awaitPrefixA b hx, feedAwaitPrefixA_eq, if_neg (show b ≠ Config.prefixA from hb), ← hx]

/-- PREFIX_A is awaited (R141). -/
theorem rxChunk_prefixA : rxChunk (0xFF :: bs) s = rxChunk bs { s with rxs := .awaitPrefixB } := by
  refine rxChunk_cons ?_
  rw [feed_of_awaitPrefixA 0xFF hx, feedAwaitPrefixA_eq]
  rfl

/-- PREFIX_A and a byte other than PREFIX_B are skipped together (R142, R148). -/
theorem rxChunk_skip_failed_pair {b : Byte} (hb : b ≠ 0x55) : rxChunk (0xFF :: b :: bs) s = rxChunk bs s := by
  rw [rxChunk_prefixA hx]
  refine rxChunk_cons ?_
  rw [feed_of_awaitPrefixB b rfl, feedAwaitPrefixB_eq, if_neg (show b ≠ Config.prefixB from hb), ← hx]

/-- A frame with an unknown tag leaves only its index behind (R143, R144, R148). -/
theorem rxChunk_unknown_tag {tag : Byte} (htag : ¬ knownTag tag = true) (k : Byte) :
    rxChunk (0xFF :: 0x55 :: k :: tag :: bs) s = rxChunk bs { s with rxIndex := k } := by
  rw [rxChunk_prefixA hx]
  have hprefixB : feed 0x55 { s with rxs := .awaitPrefixB } = ({ s with rxs := .awaitIndex }, none) := rfl
  have hindex : feed k { s with rxs := .awaitIndex } = ({ s with rxIndex := k, rxs := .awaitDataType }, none) := rfl
  rw [rxChunk_cons hprefixB, rxChunk_cons hindex]
  refine rxChunk_cons ?_
  rw [feed_of_awaitDataType tag rfl, feedAwaitDataType_unknown _ _ htag, ← hx]

end

/-- Settles O38: the ack's third byte is taken as an index and its fourth as an unknown tag. -/
theorem writeAckIsDiscarded : Obligations.WriteAckIsDiscarded := fun s hx =>
  exec_opRxChunk (rxChunk_unknown_tag hx [] (by decide) 0x0D)

/-- Settles O39: the second 0xFF fails the check of AwaitPrefixB, and what follows is skipped; where `b` is 0xFF too, it
is skipped together with the byte behind it. -/
theorem failingByteIsConsumed : Obligations.FailingByteIsConsumed := by
  intro b s hx
  have hrest : rxChunk [b, 0x0D, 0x0A] s = .next s := by
    by_cases hb : b = 0xFF
    · rw [hb, rxChunk_skip_failed_pair hx _ (by decide), rxChunk_skip hx _ (by decide)]
      rfl
    · rw [rxChunk_skip hx _ hb, rxChunk_skip hx _ (by decide), rxChunk_skip hx _ (by decide)]
      rfl
  refine exec_opRxChunk ?_
  rw [rxChunk_skip_failed_pair hx _ (by decide), rxChunk_skip hx _ (by decide), rxChunk_skip hx _ (by decide),
    rxChunk_skip hx _ (by decide), hrest]

/-! Reply frames met in AwaitPrefixA (R155). -/

/-- Every numeric tag has a payload (R87). -/
theorem tagLength_ne_zero {tag : Byte} (htag : knownTag tag = true ∧ tag ≠ Config.tagText) :
    (tagLength tag).toNat ≠ 0 := by
  obtain ⟨hknown, htext⟩ := htag
  obtain rfl | rfl | rfl | rfl | rfl | rfl := knownTag_iff.1 hknown
  case inr.inr.inr.inl => exact absurd rfl htext
  all_goals decide

/-- The receive registers after a reply frame: its index, its tag and its payload (R155, assumption log 29). -/
def parsedReply (k tag : Byte) (p : List Byte) (s : State) : State :=
  { s with rxIndex := k, rxType := tag, rxRemaining := 0, rxLenPending := false, pbuf := p }

/-- The state after a reply frame with the value `v`: parsed, then dispatched (R150). -/
def deliveredReply (k tag : Byte) (p : List Byte) (v : SensorValue) (s : State) : State :=
  (resolve k v (parsedReply k tag p s)).1.setRet .none

/-- Where nothing is pending, the frame is dropped. -/
theorem deliveredReply_miss {k : Byte} {s : State} (hmiss : tblLookup s.tbl k = none) (tag : Byte) (p : List Byte)
    (v : SensorValue) : deliveredReply k tag p v s = { parsedReply k tag p s with ret := .none } := by
  have hresolve : resolve k v (parsedReply k tag p s) = (parsedReply k tag p s, false) := by
    simp only [resolve, parsedReply, hmiss]
  rw [deliveredReply, hresolve]
  rfl

/-- Where an entry is pending, its handle is emitted with the value, and it is removed. -/
theorem deliveredReply_hit {k : Byte} {e : Entry} {s : State} (hhit : tblLookup s.tbl k = some e) (tag : Byte)
    (p : List Byte) (v : SensorValue) : deliveredReply k tag p v s = { parsedReply k tag p s with
      ret := .none, tbl := tblRemove s.tbl k, cb := s.cb ++ [(e.onResolve, v)] } := by
  rw [deliveredReply]
  simp only [resolve, parsedReply, hhit]
  rfl

/-- Parsing ends in the receive state where it began. -/
theorem parsedReply_eq {s : State} (hx : s.rxs = .awaitPrefixA) (k tag : Byte) (p : List Byte) :
    parsedReply k tag p s = { s with
      rxs := .awaitPrefixA, rxIndex := k, rxType := tag, rxRemaining := 0, rxLenPending := false, pbuf := p } := by
  rw [parsedReply, ← hx]

/-- A numeric frame whose payload has the length of its tag delivers the decoded payload (R155, R150). -/
theorem deliver_numericReply {tag : Byte} {p : List Byte} {v : SensorValue} {s : State} (hx : s.rxs = .awaitPrefixA)
    (htag : knownTag tag = true ∧ tag ≠ Config.tagText) (hlen : p.length = (tagLength tag).toNat)
    (hv : decodePayload tag p = some v) (k : Byte) :
    deliver (replyFrame k tag p) s = .next (deliveredReply k tag p v s) := by
  have hne : p ≠ [] := by
    rintro rfl
    exact tagLength_ne_zero htag hlen.symm
  rw [deliver_numeric hx htag.1 htag.2 hlen hne hv, deliveredReply, parsedReply_eq hx]

/-- A text frame delivers its bytes (R155, R88, R150). -/
theorem deliver_textReply {p : List Byte} {s : State} (hx : s.rxs = .awaitPrefixA) (hlen : p.length ≤ 255)
    (k : Byte) : deliver (replyFrame k Config.tagText (BitVec.ofNat 8 p.length :: p)) s
      = .next (deliveredReply k Config.tagText p (.text p) s) := by
  rw [deliver_text hx hlen, deliveredReply, parsedReply_eq hx]

/-! What the numeric payloads decode to (R182 to R186). -/

theorem decodePayload_byte (p : Byte) :
    decodePayload Config.tagByte [p] = some (.int (BitVec.ofNat 32 p.toNat)) := by
  rw [BitVec.ofNat_toNat]
  rfl

theorem decodePayload_short (h : Half) :
    decodePayload Config.tagShort (halfBytes h) = some (.int (BitVec.ofNat 32 h.toNat)) := by
  have hcompose : compose2 (h.extractLsb' 0 8) (h.extractLsb' 8 8) = BitVec.ofNat 32 h.toNat := by
    rw [compose2_eq, ← half_toNat, half_halfBytes]
  exact congrArg (fun n => some (SensorValue.int n)) hcompose

/-- The four bytes of a word compose to the word (R184, R185). -/
theorem compose4_wordBytes (w : Word) :
    compose4 (w.extractLsb' 0 8) (w.extractLsb' 8 8) (w.extractLsb' 16 8) (w.extractLsb' 24 8) = w := by
  rw [compose4_eq_word, word_wordBytes]

theorem decodePayload_long (w : Word) : decodePayload Config.tagLong (wordBytes w) = some (.int w) :=
  congrArg (fun n => some (SensorValue.int n)) (compose4_wordBytes w)

theorem decodePayload_float (w : Word) : decodePayload Config.tagFloat (wordBytes w) = some (.float w) :=
  congrArg (fun n => some (SensorValue.float n)) (compose4_wordBytes w)

theorem decodePayload_double (w : Word) : decodePayload Config.tagDouble (wordBytes w) = some (.float w) :=
  congrArg (fun n => some (SensorValue.float n)) (compose4_wordBytes w)

/-- Settles O36: each numeric row delivers the value its payload decodes to, whether or not an entry is pending. -/
theorem numericRepliesAreDelivered : Obligations.NumericRepliesAreDelivered := by
  intro k p h w s hx
  have hbyte : exec (.replyByte k p) s = .next (deliveredReply k Config.tagByte [p] _ s) :=
    deliver_numericReply hx (by decide) rfl (decodePayload_byte p) k
  have hshort : exec (.replyShort k h) s = .next (deliveredReply k Config.tagShort (halfBytes h) _ s) :=
    deliver_numericReply hx (by decide) rfl (decodePayload_short h) k
  have hlong : exec (.replyLong k w) s = .next (deliveredReply k Config.tagLong (wordBytes w) _ s) :=
    deliver_numericReply hx (by decide) rfl (decodePayload_long w) k
  have hfloat : exec (.replyFloat k w) s = .next (deliveredReply k Config.tagFloat (wordBytes w) _ s) :=
    deliver_numericReply hx (by decide) rfl (decodePayload_float w) k
  have hdouble : exec (.replyDouble k w) s = .next (deliveredReply k Config.tagDouble (wordBytes w) _ s) :=
    deliver_numericReply hx (by decide) rfl (decodePayload_double w) k
  dsimp only
  rw [hbyte, hshort, hlong, hfloat, hdouble]
  cases hlookup : tblLookup s.tbl k with
  | none =>
    simp only [deliveredReply_miss hlookup]
    exact ⟨rfl, rfl, rfl, rfl, rfl⟩
  | some e =>
    simp only [deliveredReply_hit hlookup]
    exact ⟨rfl, rfl, rfl, rfl, rfl⟩

/-- Settles O37: a text of at most 255 bytes is its frame, whether or not an entry is pending. -/
theorem textRepliesAreDelivered : Obligations.TextRepliesAreDelivered := by
  intro k text s hx hlen
  have htext : exec (.replyText k text) s = .next (deliveredReply k Config.tagText text (.text text) s) :=
    (exec_replyText hlen k s).trans (deliver_textReply hx hlen k)
  dsimp only
  rw [htext]
  cases hlookup : tblLookup s.tbl k with
  | none => rw [deliveredReply_miss hlookup]; rfl
  | some e => rw [deliveredReply_hit hlookup]; rfl

/-! The other instructions (R156). -/

/-- Settles O53: by the kinds of R100, every operation other than feeding, receiving and `reset` writes other fields. -/
theorem onlyFeedingAndResetTouchTheParser : Obligations.OnlyFeedingAndResetTouchTheParser := by
  intro i s t h hfeeds hreceives hresets
  obtain ⟨-, r, rfl⟩ | ⟨heffect, -⟩ | ⟨heffect, -⟩ | ⟨-, callback, rfl⟩ | ⟨-, k, v, r, rfl⟩ | ⟨-, rfl⟩ | ⟨-, f, rfl⟩ |
    ⟨-, ⟨callback, f, rfl⟩ | ⟨f, rfl⟩⟩ | ⟨heffect, -⟩ := exec_cases h
  · rfl
  · exact absurd heffect hfeeds
  · exact absurd heffect hreceives
  · rfl
  · obtain ⟨-, hmiss⟩ | ⟨e, -, hhit⟩ := resolve_cases k v s
    · rw [hmiss]; rfl
    · rw [hhit]; rfl
  · rfl
  · rfl
  · rfl
  · rfl
  · exact absurd heffect hresets

end Sys2Proof.Proofs
end

section
/-! The Payload Decoder (R180 to R188) and the accessors of a SensorValue (R190 to R192). `decode` is settled by two
facts about the pure `decodePayload`: where it answers (`decodePayload_isSome`), and what it answers for each tag, where
the bytes are those of the field they compose. -/

namespace Sys2Proof.Proofs

open Sys2Proof Sys2Proof.Machine

/-! The operation `decode` is the pure decoder: it hands the value back, or is refused. -/

/-- A decoded payload is handed back, and nothing else changes (R180, R181). -/
theorem exec_opDecode {tag : Byte} {p : List Byte} {v : SensorValue} (hv : decodePayload tag p = some v) (s : State) :
    exec (.opDecode tag p) s = .next { s with ret := .value v } := by
  simp only [exec, execDecode, hv, State.setRet]

/-- Without a value the operation is refused (R188). -/
theorem exec_opDecode_refused {tag : Byte} {p : List Byte} (hv : decodePayload tag p = none) (s : State) :
    exec (.opDecode tag p) s = .refused .decodeOutOfDomain := by
  simp only [exec, execDecode, hv]

/-- Settles O12: by `decodePayload_isSome` a payload that fits has a value, and one that does not has none. -/
theorem decodeDomain : Obligations.DecodeDomain := by
  refine fun tag p s => ⟨fun hfits => ?_, fun hunfit => ?_⟩
  · obtain ⟨v, hv⟩ := Option.isSome_iff_exists.1 ((decodePayload_isSome tag p).2 hfits)
    exact ⟨v, exec_opDecode hv s⟩
  · have hnone : decodePayload tag p = none :=
      Option.not_isSome_iff_eq_none.1 (mt (decodePayload_isSome tag p).1 hunfit)
    exact exec_opDecode_refused hnone s

/-! What two and four bytes, and a text, decode to (R183 to R187). -/

/-- A 32-bit quantity is the little-endian sum of its bytes (R184, R185). -/
theorem word_eq_ofNat (p0 p1 p2 p3 : Byte) : word p0 p1 p2 p3
    = BitVec.ofNat 32 (p0.toNat + 256 * p1.toNat + 65536 * p2.toNat + 16777216 * p3.toNat) := by
  rw [← word_toNat, BitVec.ofNat_toNat, BitVec.setWidth_eq]

theorem decodePayload_shortBytes (p0 p1 : Byte) : decodePayload Config.tagShort [p0, p1]
    = some (.int (BitVec.ofNat 32 (p0.toNat + 256 * p1.toNat))) := by
  rw [← half_toNat, ← decodePayload_short, halfBytes_half]

/-- At the text tag the comparisons with the numeric tags fail, and only the bound of R187 is left. -/
theorem decodePayload_text {p : List Byte} (hlen : p.length ≤ Config.textMax) :
    decodePayload Config.tagText p = some (.text p) := if_pos hlen

/-- Settles O11: each clause is what the payload decodes to, and the composed word is its bytes' sum. -/
theorem decodeByTypeTag : Obligations.DecodeByTypeTag := by
  intro p0 p1 p2 p3 p s
  rw [← word_eq_ofNat, ← wordBytes_word p0 p1 p2 p3]
  exact ⟨exec_opDecode (decodePayload_byte p0) s, exec_opDecode (decodePayload_shortBytes p0 p1) s,
    exec_opDecode (decodePayload_long _) s, exec_opDecode (decodePayload_float _) s,
    exec_opDecode (decodePayload_double _) s, fun hlen => exec_opDecode (decodePayload_text hlen) s⟩

/-! The accessors hand back the reading of the value, and change nothing else. -/

theorem exec_opIntValue (v : SensorValue) (s : State) :
    exec (.opIntValue v) s = .next { s with ret := .int (intValue v).toNat } := rfl

theorem exec_opFloatValue (v : SensorValue) (s : State) :
    exec (.opFloatValue v) s = .next { s with ret := .pattern (floatValue v) } := rfl

theorem exec_opTextValue (v : SensorValue) (s : State) :
    exec (.opTextValue v) s = .next { s with ret := .bytes (textValue v) } := rfl

/-- Settles O13: each accessor at each of the three variants, where its reading is an equation of its definition. -/
theorem accessorsReadOrDefault : Obligations.AccessorsReadOrDefault := fun n w b s =>
  ⟨exec_opIntValue (.int n) s, exec_opIntValue (.float w) s, exec_opIntValue (.text b) s,
    exec_opFloatValue (.float w) s, exec_opFloatValue (.int n) s, exec_opFloatValue (.text b) s,
    exec_opTextValue (.text b) s, exec_opTextValue (.int n) s, exec_opTextValue (.float w) s⟩

end Sys2Proof.Proofs
end

section
/-! The Request Correlation Table (R210 to R218): what `allocate`, `resolve` and `discardAll` store and remove, and what
each kind of instruction leaves alone of the table and CURSOR. -/

namespace Sys2Proof.Proofs

open Sys2Proof Sys2Proof.Machine

/-! The operations of the table and the LINK events, each as one next state. -/

/-- The index handed back is the CURSOR before the call (R211). -/
theorem exec_opAllocate (h : CallbackHandle) (s : State) :
    exec (.opAllocate h) s = .next ((allocate h s).setRet (.index s.cursor)) := rfl

/-- A miss changes nothing but the value handed back (R212). -/
theorem exec_opResolve_miss {k : Byte} {s : State} (hmiss : tblLookup s.tbl k = none) (v : SensorValue) :
    exec (.opResolve k v) s = .next { s with ret := .bool false } := by
  simp only [exec, execResolve, resolve, hmiss, State.setRet]

/-- A hit emits the stored handle with the value and removes the entry (R212). -/
theorem exec_opResolve_hit {k : Byte} {e : Entry} {s : State} (hhit : tblLookup s.tbl k = some e) (v : SensorValue) :
    exec (.opResolve k v) s
      = .next { s with tbl := tblRemove s.tbl k, cb := s.cb ++ [(e.onResolve, v)], ret := .bool true } := by
  simp only [exec, execResolve, resolve, hhit, State.emitCb, State.setTbl, State.setRet]

/-- The table is emptied (R214). -/
theorem exec_opDiscardAll (s : State) : exec .opDiscardAll s = .next { s with tbl := [], ret := .none } := rfl

/-- The disconnect event performs `discardAll` (R259). -/
theorem exec_opOnDisconnect (s : State) : exec .opOnDisconnect s = exec .opDiscardAll s := rfl

/-- The connect event hands back nothing (R258). -/
theorem exec_opOnConnect (s : State) : exec .opOnConnect s = .next { s with ret := .none } := rfl

/-- No entry expires (R215). -/
theorem exec_opIsExpired (e : Entry) (s : State) :
    exec (.opIsExpired e) s = .next { s with ret := .bool false } := rfl

/-- Settles O14: the new table is the old one with the entry stored under CURSOR. -/
theorem allocateStoresAndAdvances : Obligations.AllocateStoresAndAdvances := fun h s =>
  ⟨Config.nowSample s.freeCount, (allocate h s).tbl, exec_opAllocate h s,
    tblLookup_store_same s.tbl s.cursor _, fun _ hk => tblLookup_store_other hk⟩

/-- Settles O16: the key was live, so storing under it replaces its entry, and `allocate` leaves CB alone. -/
theorem clobberIsSilent : Obligations.ClobberIsSilent := by
  intro h s t e hwf hlive hexec
  cases (exec_opAllocate h s).symm.trans hexec
  exact ⟨length_tblStore_of_live hwf hlive, rfl, _, tblLookup_store_same s.tbl s.cursor _, rfl⟩

/-- Settles O18: a removed key holds nothing in canonical form, and the other keys hold what they held. -/
theorem resolveFiresOnceOrMisses : Obligations.ResolveFiresOnceOrMisses := fun k v s hwf =>
  ⟨fun hmiss => exec_opResolve_miss hmiss v, fun _ hhit => ⟨tblRemove s.tbl k, exec_opResolve_hit hhit v,
    tblLookup_remove_same hwf, fun _ hj => tblLookup_remove_other hj⟩⟩

/-- Settles O20: the disconnect event is `discardAll`, which empties the table. -/
theorem discardLinkAndExpiry : Obligations.DiscardLinkAndExpiry := fun e s =>
  ⟨exec_opDiscardAll s, (exec_opOnDisconnect s).trans (exec_opDiscardAll s), exec_opOnConnect s, exec_opIsExpired e s⟩

/-! The allocation sequence (R217). -/

/-- The successor of the `n`-th index of the sequence is the next one: the wrap after 254 is that of `n mod 253`. -/
theorem nextCursor_of_sequence {i : Byte} {n : Nat} (hi : i.toNat = 2 + n % 253) :
    (nextCursor i).toNat = 2 + (n + 1) % 253 := by
  have hlt : n % 253 < 253 := Nat.mod_lt n (by decide)
  rw [nextCursor_toNat (by omega) (by omega)]
  split <;> omega

theorem allocateMany_cursor (h : Nat → CallbackHandle) {s : State} (hs : s.cursor = 2) (n : Nat) :
    (allocateMany h n s).cursor.toNat = 2 + n % 253 := by
  induction n with
  | zero => exact congrArg BitVec.toNat hs
  | succ n ih => exact nextCursor_of_sequence ih

/-- Settles O15: call `n + 1` hands back the CURSOR that `n` calls leave, and moves it on by one. -/
theorem allocationSequence : Obligations.AllocationSequence := by
  intro h g n s hs
  have hcursor := allocateMany_cursor h hs n
  exact ⟨hcursor, _, _, exec_opAllocate g (allocateMany h n s), rfl, hcursor, nextCursor_of_sequence hcursor⟩

/-! CURSOR stays where nothing allocates or resets (R210). -/

theorem resolve_cursor (k : Byte) (v : SensorValue) (s : State) : (resolve k v s).1.cursor = s.cursor := by
  obtain ⟨-, hmiss⟩ | ⟨e, -, hhit⟩ := resolve_cases k v s
  · rw [hmiss]
  · rw [hhit]

theorem rxByte_keeps_cursor {b : Byte} {s t : State} (h : rxByte b s = .next t) : t.cursor = s.cursor := by
  obtain rfl | ⟨f, e, v, -, -, -, rfl⟩ := rxByte_next h
  · exact feed_cursor b s
  · exact feed_cursor b s

theorem rxChunk_keeps_cursor {bs : List Byte} {s t : State} (h : rxChunk bs s = .next t) : t.cursor = s.cursor :=
  rxChunk_induct (R := fun s t => t.cursor = s.cursor) (fun _ => rfl)
    (fun hbyte htail => htail.trans (rxByte_keeps_cursor hbyte)) h

/-- Settles O54: by the kinds of R100, every operation other than allocating and `reset` writes other fields. -/
theorem onlyAllocationAndResetMoveTheCursor : Obligations.OnlyAllocationAndResetMoveTheCursor := by
  intro i s t h hallocates hreads hresets
  obtain ⟨-, r, rfl⟩ | ⟨-, b, r, rfl⟩ | ⟨-, bs, u, hchunk, rfl⟩ | ⟨heffect, -⟩ | ⟨-, k, v, r, rfl⟩ | ⟨-, rfl⟩ |
    ⟨-, f, rfl⟩ | ⟨heffect, -⟩ | ⟨heffect, -⟩ := exec_cases h
  · rfl
  · exact feed_cursor b s
  · rw [State.setRet_cursor]; exact rxChunk_keeps_cursor hchunk
  · exact absurd heffect hallocates
  · exact resolve_cursor k v s
  · rfl
  · rfl
  · exact absurd heffect hreads
  · exact absurd heffect hresets

/-! Resolving and receiving only remove entries (R218). -/

/-- From `t` to `u` each key keeps what it held or is emptied. The canonical form comes along: without it a removal
could uncover an older entry of the same key. -/
def OnlyRemoves (t u : Table) : Prop :=
  t.wf → u.wf ∧ ∀ k, tblLookup u k = none ∨ tblLookup u k = tblLookup t k

theorem OnlyRemoves.refl (t : Table) : OnlyRemoves t t := fun hwf => ⟨hwf, fun _ => .inr rfl⟩

theorem OnlyRemoves.trans {t u w : Table} (htu : OnlyRemoves t u) (huw : OnlyRemoves u w) : OnlyRemoves t w := by
  intro hwf
  obtain ⟨hwfu, hu⟩ := htu hwf
  obtain ⟨hwfw, hw⟩ := huw hwfu
  refine ⟨hwfw, fun k => ?_⟩
  obtain hnone | hsame := hw k
  · exact .inl hnone
  · rw [hsame]; exact hu k

theorem onlyRemoves_tblRemove (t : Table) (k : Byte) : OnlyRemoves t (tblRemove t k) := by
  refine fun hwf => ⟨wf_tblRemove hwf, fun j => ?_⟩
  by_cases hj : j = k
  · subst hj; exact .inl (tblLookup_remove_same hwf)
  · exact .inr (tblLookup_remove_other hj)

theorem resolve_onlyRemoves (k : Byte) (v : SensorValue) (s : State) : OnlyRemoves s.tbl (resolve k v s).1.tbl := by
  obtain ⟨-, hmiss⟩ | ⟨e, -, hhit⟩ := resolve_cases k v s
  · rw [hmiss]; exact .refl s.tbl
  · rw [hhit]; exact onlyRemoves_tblRemove s.tbl k

theorem rxByte_onlyRemoves {b : Byte} {s t : State} (h : rxByte b s = .next t) : OnlyRemoves s.tbl t.tbl := by
  obtain rfl | ⟨f, e, v, -, -, -, rfl⟩ := rxByte_next h
  · rw [feed_tbl]; exact .refl s.tbl
  · exact onlyRemoves_tblRemove s.tbl f.index

theorem rxChunk_onlyRemoves {bs : List Byte} {s t : State} (h : rxChunk bs s = .next t) : OnlyRemoves s.tbl t.tbl :=
  rxChunk_induct (R := fun s t => OnlyRemoves s.tbl t.tbl) (fun s => .refl s.tbl)
    (fun hbyte htail => (rxByte_onlyRemoves hbyte).trans htail) h

/-- Settles O55: by the kinds of R100. The effect leaves at most one of the three clauses, and there the operation's
own lemma speaks; a discard and `reset` are under none. -/
theorem entriesEndInNoOtherWay : Obligations.EntriesEndInNoOtherWay := by
  intro i s t k hwf h
  obtain ⟨heffect, r, rfl⟩ | ⟨heffect, b, r, rfl⟩ | ⟨heffect, bs, u, hchunk, rfl⟩ | ⟨heffect, callback, rfl⟩ |
    ⟨heffect, j, v, r, rfl⟩ | ⟨heffect, -⟩ | ⟨heffect, f, rfl⟩ |
    ⟨heffect, ⟨callback, f, rfl⟩ | ⟨f, rfl⟩⟩ | ⟨heffect, -⟩ := exec_cases h
  · simp [heffect]
  · simp [heffect]
  · obtain ⟨-, hremoves⟩ := rxChunk_onlyRemoves hchunk hwf
    simpa [heffect] using hremoves k
  · simpa [heffect] using fun hk => tblLookup_store_other hk
  · obtain ⟨-, hremoves⟩ := resolve_onlyRemoves j v s hwf
    simpa [heffect] using hremoves k
  · simp [heffect]
  · simp [heffect]
  · simpa [heffect] using fun hk => tblLookup_store_other hk
  · simp [heffect]
  · simp [heffect]

end Sys2Proof.Proofs
end

section
/-! The Command Facade (R240 to R256) and the read frames (R126): a command is one frame on TX, a read command an
allocation too, and an operand outside its domain is a refusal. -/

namespace Sys2Proof.Proofs

open Sys2Proof Sys2Proof.Machine

/-! Frames on TX (R256). -/

/-- Taking a byte leaves TX alone: by `dispatch` it reaches TBL and CB at most (R150). -/
theorem rxByte_keeps_tx {b : Byte} {s t : State} (h : rxByte b s = .next t) : t.tx = s.tx := by
  obtain rfl | ⟨f, e, v, -, -, -, rfl⟩ := rxByte_next h
  · exact feed_tx b s
  · exact feed_tx b s

theorem rxChunk_keeps_tx {bs : List Byte} {s t : State} (h : rxChunk bs s = .next t) : t.tx = s.tx :=
  rxChunk_induct (R := fun s t => t.tx = s.tx) (fun _ => rfl)
    (fun hbyte htail => htail.trans (rxByte_keeps_tx hbyte)) h

theorem resolve_tx (k : Byte) (v : SensorValue) (s : State) : (resolve k v s).1.tx = s.tx := by
  obtain ⟨-, hmiss⟩ | ⟨e, -, hhit⟩ := resolve_cases k v s
  · rw [hmiss]
  · rw [hhit]

/-- Settles O57: by the kinds of R100. The two that write TX add the frame they encoded; the others leave TX alone. -/
theorem oneFramePerOutboundCommand : Obligations.OneFramePerOutboundCommand := by
  intro i s t h
  obtain ⟨heffect, r, rfl⟩ | ⟨heffect, b, r, rfl⟩ | ⟨heffect, bs, u, hchunk, rfl⟩ | ⟨heffect, callback, rfl⟩ |
    ⟨heffect, k, v, r, rfl⟩ | ⟨heffect, rfl⟩ | ⟨heffect, f, rfl⟩ |
    ⟨heffect, ⟨callback, f, rfl⟩ | ⟨f, rfl⟩⟩ | ⟨heffect, rfl⟩ := exec_cases h
  · simp [heffect]
  · simp [heffect]
  · simpa [heffect] using rxChunk_keeps_tx hchunk
  · simp [heffect]
  · simpa [heffect] using resolve_tx k v s
  · simp [heffect, discardAll_eq]
  · simp [heffect]
  · simp [heffect]
  · simp [heffect]
  · simp [heffect, resetEngine_eq]

/-! The commands inside their domains. -/

/-- Settles O42: on each side of the payload's bound. -/
theorem sendWriteEmitsOneFrame : Obligations.SendWriteEmitsOneFrame := fun deviceId _ s =>
  ⟨fun hlen => sendWrite_eq hlen deviceId s, fun hlen => sendWrite_refused hlen deviceId s⟩

/-- Settles O43: the frame and the index handed back are those of the CURSOR before the allocation. -/
theorem sendReadAllocatesThenEmits : Obligations.SendReadAllocatesThenEmits := fun deviceId _ h s =>
  ⟨fun hlen => ⟨_, exec_opAllocate h s, sendRead_eq hlen deviceId h s, rfl⟩,
    fun hlen => sendRead_refused hlen deviceId h s⟩

/-- Settles O44: both operations are one write frame where the speeds are signed 16-bit values. -/
theorem motorCommandsEmitTheirFrame : Obligations.MotorCommandsEmitTheirFrame :=
  fun _ _ port s hleft hleft' hright hright' =>
    ⟨setMotors_eq hleft hleft' hright hright' s, setMotor_eq hleft hleft' port s⟩

/-- `setLED` (R250): its five payload bytes always fit a frame. -/
theorem setLED_eq (position red green blue : Byte) (s : State) :
    setLED position red green blue s = .next { s with ret := .none, tx := s.tx ++
      [commandFrame 1 Config.modeWrite Config.devLed [Config.ledSubcmd, position, red, green, blue]] } :=
  sendWrite_eq (by simp) Config.devLed s

/-- Settles O46: `setLED` has bytes for operands, and `playTone` its two in the unsigned 16-bit range. -/
theorem ledAndToneEmitTheirFrame : Obligations.LedAndToneEmitTheirFrame := fun position red green blue _ _ s =>
  ⟨setLED_eq position red green blue s, fun hpitch hpitch' hduration hduration' =>
    playTone_eq hpitch hpitch' hduration hduration' s⟩

/-- Settles O47: each sensor read is `sendRead` with a payload of one byte. -/
theorem sensorReadsAllocateThenEmit : Obligations.SensorReadsAllocateThenEmit := fun port h s =>
  have sent (deviceId : Byte) := sendRead_eq (p := [port]) (by simp) deviceId h s
  ⟨_, exec_opAllocate h s, sent Config.devUltrasonic, sent Config.devLight, sent Config.devLine⟩

/-! The commands outside their domains (R255, U9). -/

theorem inSigned16_eq_false {v : Int} (hout : v < -32768 ∨ 32767 < v) : inSigned16 v = false :=
  decide_eq_false (by omega)

theorem inNegatable16_eq_false {v : Int} (hout : v < -32767 ∨ 32767 < v) : inNegatable16 v = false :=
  decide_eq_false (by omega)

theorem inUnsigned16_eq_false {v : Int} (hout : v < 0 ∨ 65535 < v) : inUnsigned16 v = false :=
  decide_eq_false (by omega)

/-- One speed outside the signed range is enough. -/
theorem setMotors_refused {left right : Int} (hout : inSigned16 left = false ∨ inSigned16 right = false) (s : State) :
    setMotors left right s = .refused .operandOutOfDomain := by
  rw [setMotors, Bool.and_eq_false_iff.2 hout]; rfl

theorem setMotor_refused {speed : Int} (hout : inSigned16 speed = false) (port : Byte) (s : State) :
    setMotor port speed s = .refused .operandOutOfDomain := by
  rw [setMotor, hout]; rfl

/-- The signs of the wheels do not matter: the domain is symmetric. -/
theorem drive_refused {speed : Int} (hout : inNegatable16 speed = false) (leftSign rightSign : Int) (s : State) :
    drive leftSign rightSign speed s = .refused .operandOutOfDomain := by
  rw [drive, hout]; rfl

/-- The pitch or the duration outside the unsigned range is enough. -/
theorem playTone_refused {pitch duration : Int} (hout : inUnsigned16 pitch = false ∨ inUnsigned16 duration = false)
    (s : State) : playTone pitch duration s = .refused .operandOutOfDomain := by
  rw [playTone, Bool.and_eq_false_iff.2 hout]; rfl

/-- Settles O48: each clause fails the range check of its operation, at either operand where there are two. -/
theorem outOfDomainOperandsAreRefused : Obligations.OutOfDomainOperandsAreRefused := by
  intro v w port s
  refine ⟨fun hout => ?_, fun hout => ?_, fun hout => ?_⟩
  · have hfails := inSigned16_eq_false hout
    exact ⟨setMotors_refused (.inl hfails) s, setMotors_refused (.inr hfails) s, setMotor_refused hfails port s⟩
  · have refused (leftSign rightSign : Int) := drive_refused (inNegatable16_eq_false hout) leftSign rightSign s
    exact ⟨refused _ _, refused _ _, refused _ _, refused _ _⟩
  · have hfails := inUnsigned16_eq_false hout
    exact ⟨playTone_refused (.inl hfails) s, playTone_refused (.inr hfails) s⟩

/-! The read frames (R126, R241). -/

/-- With the CURSOR as its index a read frame is the read command (R241). -/
theorem sendReadFrame_cursor (deviceId : Byte) (p : List Byte) (callback : CallbackHandle) (s : State) :
    sendReadFrame s.cursor deviceId p callback s = sendRead deviceId p callback s := if_pos rfl

/-- With any other index it is a bare frame of `encode`, without a table entry (R126; assumption log 16). -/
theorem sendReadFrame_other {k : Byte} {s : State} (hk : k ≠ s.cursor) (deviceId : Byte) (p : List Byte)
    (callback : CallbackHandle) :
    sendReadFrame k deviceId p callback s = sendFrame k Config.modeRead deviceId p s := if_neg hk

/-- Settles O50: the four rows are `sendReadFrame` at their device, the three sensor reads with one byte of payload. -/
theorem readFramesAllocateTheirIndex : Obligations.ReadFramesAllocateTheirIndex := by
  intro k d port p h s hlen
  have hport : [port].length ≤ 252 := by simp
  refine ⟨?_, fun hk => ?_⟩
  · rintro rfl
    have allocating {q : List Byte} (hq : q.length ≤ 252) (deviceId : Byte) :=
      (sendReadFrame_cursor deviceId q h s).trans (sendRead_eq hq deviceId h s)
    exact ⟨_, exec_opAllocate h s, allocating hlen d, allocating hport Config.devUltrasonic,
      allocating hport Config.devLight, allocating hport Config.devLine⟩
  · have bare {q : List Byte} (hq : q.length ≤ 252) (deviceId : Byte) :=
      (sendReadFrame_other hk deviceId q h).trans (sendFrame_eq hq k Config.modeRead deviceId s)
    exact ⟨bare hlen d, bare hport Config.devUltrasonic, bare hport Config.devLight, bare hport Config.devLine⟩

end Sys2Proof.Proofs
end

section
/-! Emissions on CB (R290): one for each entry that a `resolve` or a dispatch hits, and no other. -/

namespace Sys2Proof.Proofs

open Sys2Proof Sys2Proof.Machine

/-- From `s` to `t` each entry removed is one emission added, and the earlier emissions stand. -/
def EmitsPerRemoval (s t : State) : Prop :=
  t.cb.length + t.tbl.length = s.cb.length + s.tbl.length ∧ ∃ new, t.cb = s.cb ++ new

theorem EmitsPerRemoval.trans {s t u : State} (hst : EmitsPerRemoval s t) (htu : EmitsPerRemoval t u) :
    EmitsPerRemoval s u := by
  obtain ⟨hcount, new, hnew⟩ := hst
  obtain ⟨hcount', new', hnew'⟩ := htu
  exact ⟨hcount'.trans hcount, new ++ new', by rw [hnew', hnew, List.append_assoc]⟩

/-- The value handed back is no part of the count. -/
theorem EmitsPerRemoval.setRet {s t : State} (h : EmitsPerRemoval s t) (r : CmdResult) :
    EmitsPerRemoval s (t.setRet r) := h

theorem emitsPerRemoval_of_same {s t : State} (htbl : t.tbl = s.tbl) (hcb : t.cb = s.cb) : EmitsPerRemoval s t :=
  ⟨by rw [htbl, hcb], [], by rw [hcb, List.append_nil]⟩

/-- A hit: a live key loses exactly one entry, whatever the shape of the table. -/
theorem emitsPerRemoval_of_hit {k : Byte} {e : Entry} {s t : State} {emission : CallbackHandle × SensorValue}
    (hhit : tblLookup s.tbl k = some e) (htbl : t.tbl = tblRemove s.tbl k) (hcb : t.cb = s.cb ++ [emission]) :
    EmitsPerRemoval s t := by
  have hlength := length_tblRemove hhit
  refine ⟨?_, _, hcb⟩
  rw [htbl, hcb, List.length_append, List.length_singleton]
  omega

theorem resolve_emitsPerRemoval (k : Byte) (v : SensorValue) (s : State) : EmitsPerRemoval s (resolve k v s).1 := by
  obtain ⟨-, hmiss⟩ | ⟨e, hlookup, hhit⟩ := resolve_cases k v s
  · rw [hmiss]; exact emitsPerRemoval_of_same rfl rfl
  · rw [hhit]; exact emitsPerRemoval_of_hit hlookup rfl rfl

theorem rxByte_emitsPerRemoval {b : Byte} {s t : State} (h : rxByte b s = .next t) : EmitsPerRemoval s t := by
  obtain rfl | ⟨f, e, v, -, hhit, -, rfl⟩ := rxByte_next h
  · exact emitsPerRemoval_of_same (feed_tbl b s) (feed_cb b s)
  · exact emitsPerRemoval_of_hit hhit rfl rfl

theorem rxChunk_emitsPerRemoval {bs : List Byte} {s t : State} (h : rxChunk bs s = .next t) : EmitsPerRemoval s t :=
  rxChunk_induct (R := EmitsPerRemoval) (fun _ => emitsPerRemoval_of_same rfl rfl)
    (fun hbyte htail => (rxByte_emitsPerRemoval hbyte).trans htail) h

/-- Settles O56: by the kinds of R100. Receiving and resolving emit per removal, and the others leave CB alone: the
entries of a discard, of `reset` and of a clobbering allocation go in silence. -/
theorem emissionsMatchRemovals : Obligations.EmissionsMatchRemovals := by
  intro i s t h
  obtain ⟨heffect, r, rfl⟩ | ⟨heffect, b, r, rfl⟩ | ⟨heffect, bs, u, hchunk, rfl⟩ | ⟨heffect, callback, rfl⟩ |
    ⟨heffect, k, v, r, rfl⟩ | ⟨heffect, rfl⟩ | ⟨heffect, f, rfl⟩ |
    ⟨heffect, ⟨callback, f, rfl⟩ | ⟨f, rfl⟩⟩ | ⟨heffect, rfl⟩ := exec_cases h
  · simp [heffect]
  · simp [heffect]
  · exact ⟨fun _ => (rxChunk_emitsPerRemoval hchunk).setRet .none, fun _ hreceives => absurd heffect hreceives⟩
  · simp [heffect]
  · exact ⟨fun _ => (resolve_emitsPerRemoval k v s).setRet r, fun hresolves => absurd heffect hresolves⟩
  · simp [heffect, discardAll_eq]
  · simp [heffect]
  · simp [heffect]
  · simp [heffect]
  · simp [heffect, resetEngine_eq]

end Sys2Proof.Proofs
end

section
/-! `reset` (R320) and the clobber hazard of the allocation sequence (R327): CURSOR comes round to an entry's key exactly
at the 253rd allocation after the entry's own. -/

namespace Sys2Proof.Proofs

open Sys2Proof Sys2Proof.Machine

/-- `reset` hands back nothing (R320). -/
theorem exec_opReset (s : State) : exec .opReset s = .next ((resetEngine s).setRet .none) := rfl

/-- Settles O21: `resetEngine` as one record update, where the five working registers take the free values it reads. -/
theorem resetRestoresTheInitialState : Obligations.ResetRestoresTheInitialState := by
  intro s
  rw [exec_opReset, resetEngine_eq]
  exact ⟨_, _, _, _, _, rfl⟩

/-- `allocateMany_cursor` from place `p` of the index sequence instead of its start (R217). -/
theorem allocateMany_cursor_from (h : Nat → CallbackHandle) {p : Nat} {s : State} (hs : s.cursor.toNat = 2 + p % 253)
    (n : Nat) : (allocateMany h n s).cursor.toNat = 2 + (p + n) % 253 := by
  induction n with
  | zero => exact hs
  | succ n ih => exact nextCursor_of_sequence ih

/-- A run of allocations leaves a key alone as long as CURSOR never stands on it. -/
theorem allocateMany_keeps_lookup (h : Nat → CallbackHandle) {k : Byte} {s : State} {m : Nat}
    (hoff : ∀ n < m, (allocateMany h n s).cursor ≠ k) :
    tblLookup (allocateMany h m s).tbl k = tblLookup s.tbl k := by
  induction m with
  | zero => rfl
  | succ m ih =>
    have hkept : tblLookup (allocateMany h (m + 1) s).tbl k = tblLookup (allocateMany h m s).tbl k :=
      tblLookup_store_other (hoff m m.lt_succ_self).symm
    exact hkept.trans (ih fun n hn => hoff n (hn.trans m.lt_succ_self))

/-- An allocation puts its handle under CURSOR (R211). -/
theorem allocate_handle (h : CallbackHandle) (s : State) :
    (tblLookup (allocate h s).tbl s.cursor).map (·.onResolve) = some h :=
  congrArg (Option.map Entry.onResolve) (tblLookup_store_same s.tbl s.cursor _)

/-- CURSOR `n` allocations after that of `s`: the sequence of the 253 indices, taken up at the one after `s.cursor`. -/
theorem allocateMany_cursor_after (g : Nat → CallbackHandle) (h : CallbackHandle) {s : State}
    (hlow : 2 ≤ s.cursor.toNat) (hhigh : s.cursor.toNat ≤ 254) (n : Nat) :
    (allocateMany g n (allocate h s)).cursor.toNat = 2 + (s.cursor.toNat - 2 + 1 + n) % 253 := by
  have hplace : s.cursor.toNat = 2 + (s.cursor.toNat - 2) % 253 := by omega
  exact allocateMany_cursor_from g (nextCursor_of_sequence hplace) n

/-- Settles O17: the 252 allocations after the entry's own use the 252 other indices, and the 253rd uses its key. -/
theorem clobberComesAtThe253rdAllocation : Obligations.ClobberComesAtThe253rdAllocation := by
  intro h g m s hlow hhigh
  have hcursor := allocateMany_cursor_after g h hlow hhigh
  refine ⟨fun hm => allocateMany_keeps_lookup g fun n hn hback => ?_, ?_⟩
  · have hsame := hcursor n
    rw [hback] at hsame
    omega
  · have hback : (allocateMany g 252 (allocate h s)).cursor = s.cursor :=
      BitVec.eq_of_toNat_eq ((hcursor 252).trans (by omega))
    have hstored := allocate_handle (g 252) (allocateMany g 252 (allocate h s))
    rwa [hback] at hstored

end Sys2Proof.Proofs
end
